-- ==== Sys2Proof/Word.lean ====
section
/-! DEFINITION. The words of the do-core1 CORE block: only what the spec treats as bits. -/

namespace Sys2Proof

/-- An instruction word and a register value: `WORD_WIDTH` and `REG_WIDTH` are both 32 (00_scope.md R6). -/
abbrev Word := BitVec 32

/-- A register index as the decoder carries it: the 5 bits of its field (10_state.md R17, 91_not_in_source.md N7). -/
abbrev RegIdx := BitVec 5

/-- A numeric opcode: the 6 bits of the opcode field (30_encoding.md R32). -/
abbrev OpNum := BitVec 6

end Sys2Proof
end

