-- ==== Sys2Proof/Machine/Flags.lean ====
section
/-! DEFINITION. The integer arithmetic of the ALU. The block has no flags (10_state.md R13): an overflow is reported, never stored.
The checked addition of 41_alu.md R70 is on natural numbers; the ALU outputs of R77 are a second, 33-bit description. -/

namespace Sys2Proof.Machine

/-- The exact sum of two unsigned values, which does not wrap (00_scope.md R8, 41_alu.md R70). -/
def exactSum (a b : Word) : Nat := a.toNat + b.toNat

/-- ADD overflows when the exact sum is above 0xFFFFFFFF; signs play no part (41_alu.md R70, R75). -/
def addOverflows (a b : Word) : Bool := decide (exactSum a b > 0xFFFFFFFF)

/-- `s[31:0]`, what ADD writes (41_alu.md R70). -/
def addValue (a b : Word) : Word := BitVec.ofNat 32 (exactSum a b)

/-- What XOR writes (41_alu.md R72). -/
def xorValue (a b : Word) : Word := a ^^^ b

/-- `sum33 = zext_33(a) + zext_33(b)` (41_alu.md R77). -/
def sum33 (a b : Word) : BitVec 33 := a.setWidth 33 + b.setWidth 33

/-- `add_ovf = sum33[32]` (41_alu.md R77). -/
def addOvf (a b : Word) : Bool := (sum33 a b).getLsbD 32

/-- `add_res = sum33[31:0]` (41_alu.md R77). -/
def addRes (a b : Word) : Word := (sum33 a b).extractLsb' 0 32

/-- `xor_res = a ^ b` (41_alu.md R77). -/
def xorRes (a b : Word) : Word := a ^^^ b

end Sys2Proof.Machine
end

