-- ==== Sys2Proof/Config.lean ====
section
/-! DEFINITION. What is fixed for the block (00_scope.md R6, R7), and the free values: the signals that the spec leaves
open. A free value is an opaque constant applied to the draw counter of State, so nothing can be proved of it. -/

namespace Sys2Proof.Config

/-- `MAX_REGISTER_INDEX` (00_scope.md R6, 92_eei_decisions.md D3; notes/assumptions/8.md). -/
def maxRegisterIndex : Nat := 7

/-- `NUM_REGS` = `MAX_REGISTER_INDEX` + 1 (00_scope.md R6, 10_state.md R10). -/
def numRegs : Nat := maxRegisterIndex + 1

/-- Read data of port 0 for an out-of-range index, or when the operation executes no ADD or XOR: any value, used by no rule
(41_alu.md R76, K1.7; notes/assumptions/5.md). -/
opaque openReadData0 : Nat → Word

/-- Read data of port 1 in the same cases (41_alu.md R76, K1.7; notes/assumptions/5.md). -/
opaque openReadData1 : Nat → Word

/-- `dec_opcode` when decoding failed: no opcode was decoded (40_decode.md R56, R62, K1.8; notes/assumptions/7.md). -/
opaque openDecOpcode : Nat → OpNum

/-- `dec_op0` when decoding failed (40_decode.md R56, R62, K1.8; notes/assumptions/7.md). -/
opaque openDecOp0 : Nat → RegIdx

/-- `dec_op1` when decoding failed (40_decode.md R56, R62, K1.8; notes/assumptions/7.md). -/
opaque openDecOp1 : Nat → RegIdx

/-- `dec_op_class` when decoding failed: no opcode was decoded (40_decode.md R56, R62, K1.8; notes/assumptions/7.md). -/
opaque openOpClass : Nat → BitVec 3

/-- `rf_wdata` while `rf_we` is 0: don't care (41_alu.md R78, K1.8; notes/assumptions/5.md). -/
opaque openWriteData : Nat → Word

/-- `err_value` while `err_code` is neither 1 nor 2 (60_exceptions.md R105, K1.8; notes/assumptions/5.md). -/
opaque openErrValue : Nat → RegIdx

/-- `err_a` while `err_code` is not 3 (60_exceptions.md R105, K1.8; notes/assumptions/5.md). -/
opaque openErrA : Nat → Word

/-- `err_b` while `err_code` is not 3 (60_exceptions.md R105, K1.8; notes/assumptions/5.md). -/
opaque openErrB : Nat → Word

/-- `err_opcode` while `err_code` is not 4 (60_exceptions.md R105, K1.8; notes/assumptions/5.md). -/
opaque openErrOpcode : Nat → OpNum

end Sys2Proof.Config
end

