-- ==== Sys2Proof/Syntax.lean ====
section
/-! DEFINITION. The instructions of spec/opcode_table.json, and what the decoder answers. -/

namespace Sys2Proof

/-- One constructor for each row of spec/opcode_table.json. Every instruction has the same two operands, in this order
(30_encoding.md R35): op0, the destination and first operand register, and op1, the second operand register. -/
inductive Instr where
  /-- Load word: decodes, does not execute (42_ldw_stw_unknown.md R90). -/
  | ldw (op0 op1 : RegIdx)
  /-- Store word: decodes, does not execute (42_ldw_stw_unknown.md R91). -/
  | stw (op0 op1 : RegIdx)
  /-- Checked unsigned 32-bit addition (41_alu.md R70). -/
  | add (op0 op1 : RegIdx)
  /-- Bitwise exclusive-or (41_alu.md R72). -/
  | xor (op0 op1 : RegIdx)
deriving DecidableEq, Repr

/-- The opcode enumeration with its marker for an unrecognised number (00_scope.md R9, 40_decode.md R52, R53). -/
inductive OpCode where
  | ldw
  | stw
  | add
  | xor
  /-- `UNKNOWN(n)`: the number `n` is none of the four (40_decode.md R53). -/
  | unknown (n : OpNum)
deriving DecidableEq, Repr

/-- Which of the two operand fields (40_decode.md R50). -/
inductive OperandField where
  | op0
  | op1
deriving DecidableEq, Repr

/-- The decoded instruction: opcode and two register indices (00_scope.md R9, 10_state.md R17). -/
structure DecodedInstr where
  opcode : OpCode
  op0    : RegIdx
  op1    : RegIdx
deriving DecidableEq, Repr

/-- `RegisterIndexOutOfRange`, the one error of the decoder: the offending field and its 5-bit value
(40_decode.md R50, R54). -/
structure DecodeError where
  field : OperandField
  value : RegIdx
deriving DecidableEq, Repr

end Sys2Proof
end

