-- ==== Sys2Proof/WellFormed.lean ====
section
/-! DEFINITION. Which instructions are legal: the decoder answers these and no others. -/

namespace Sys2Proof

/-- A register index is legal up to and including `MAX_REGISTER_INDEX` (30_encoding.md R36). -/
def legalIndex (i : RegIdx) : Bool :=
  decide (i.toNat ≤ Config.maxRegisterIndex)

/-- Both indices of an instruction are legal, whatever the instruction (30_encoding.md R36, 40_decode.md R55). -/
def Instr.wellFormed : Instr → Bool
  | .ldw op0 op1 => legalIndex op0 && legalIndex op1
  | .stw op0 op1 => legalIndex op0 && legalIndex op1
  | .add op0 op1 => legalIndex op0 && legalIndex op1
  | .xor op0 op1 => legalIndex op0 && legalIndex op1

/-- The marker `UNKNOWN(n)` stands for a number that is no opcode, so `n` is 4 to 63 (40_decode.md R52, R53). -/
def OpCode.wellFormed : OpCode → Bool
  | .ldw => true
  | .stw => true
  | .add => true
  | .xor => true
  | .unknown n => decide (4 ≤ n.toNat)

/-- A decoded instruction as the decoder may answer it (40_decode.md R55). -/
def DecodedInstr.wellFormed (d : DecodedInstr) : Bool :=
  d.opcode.wellFormed && legalIndex d.op0 && legalIndex d.op1

end Sys2Proof
end

