-- ==== Sys2Proof/Decode.lean ====
section
/-! DEFINITION. The decoder (40_decode.md), and after it the encoder (30_encoding.md R41). -/

namespace Sys2Proof

/-- `w[5:0]`, the opcode field (30_encoding.md R32). -/
def fieldOpcode (w : Word) : OpNum := w.extractLsb' 0 6

/-- `w[10:6]`, the op0 field (30_encoding.md R32, 92_eei_decisions.md D1). -/
def fieldOp0 (w : Word) : RegIdx := w.extractLsb' 6 5

/-- `w[15:11]`, the op1 field (30_encoding.md R32, 92_eei_decisions.md D2). Bits 31:16 are read by nothing (R33). -/
def fieldOp1 (w : Word) : RegIdx := w.extractLsb' 11 5

/-- The opcode map (30_encoding.md R34, 40_decode.md R52). -/
def opcodeOf (n : OpNum) : OpCode :=
  if n = 0#6 then .ldw
  else if n = 1#6 then .stw
  else if n = 2#6 then .add
  else if n = 3#6 then .xor
  else .unknown n

/-- The complete decoder (40_decode.md R58): op0 is checked before op1 (92_eei_decisions.md D6), and an unrecognised
opcode is no decode error (R53). -/
def disassemble (w : Word) : Except DecodeError DecodedInstr :=
  if !legalIndex (fieldOp0 w) then .error ⟨.op0, fieldOp0 w⟩
  else if !legalIndex (fieldOp1 w) then .error ⟨.op1, fieldOp1 w⟩
  else .ok ⟨opcodeOf (fieldOpcode w), fieldOp0 w, fieldOp1 w⟩

/-- The instruction of the opcode table that a decoded instruction is; `UNKNOWN(n)` is none of them (30_encoding.md R37,
42_ldw_stw_unknown.md R92). -/
def DecodedInstr.toInstr? (d : DecodedInstr) : Option Instr :=
  match d.opcode with
  | .ldw => some (.ldw d.op0 d.op1)
  | .stw => some (.stw d.op0 d.op1)
  | .add => some (.add d.op0 d.op1)
  | .xor => some (.xor d.op0 d.op1)
  | .unknown _ => none

/-- The instruction of the opcode table that a word holds, if it holds one. -/
def decode (w : Word) : Option Instr :=
  match disassemble w with
  | .ok d => d.toInstr?
  | .error _ => none

/-- The host's view of the decoder: the word whose low `nbits` bits are those of `w`, every bit above them 0. -/
def decodeTableWord (nbits w : Nat) : Option Instr :=
  decode (BitVec.ofNat 32 (w % 2 ^ nbits))

/-- The number of an opcode (30_encoding.md R34). -/
def OpCode.number : OpCode → OpNum
  | .ldw => 0#6
  | .stw => 1#6
  | .add => 2#6
  | .xor => 3#6
  | .unknown n => n

/-- The word of one opcode number and two indices: `0x0000, op1, op0, opcode` from the most significant bit down
(30_encoding.md R41). -/
def encodeFields (n : OpNum) (op0 op1 : RegIdx) : Word :=
  (0#16 ++ op1 ++ op0 ++ n : BitVec (16 + 5 + 5 + 6))

/-- The decoded form of an instruction of the table. -/
def Instr.toDecoded : Instr → DecodedInstr
  | .ldw op0 op1 => ⟨.ldw, op0, op1⟩
  | .stw op0 op1 => ⟨.stw, op0, op1⟩
  | .add op0 op1 => ⟨.add, op0, op1⟩
  | .xor op0 op1 => ⟨.xor, op0, op1⟩

/-- The word of a decoded instruction, `UNKNOWN(n)` included (30_encoding.md R41, 42_ldw_stw_unknown.md R92). -/
def encodeDecoded (d : DecodedInstr) : Word :=
  encodeFields d.opcode.number d.op0 d.op1

/-- The word of an instruction: one word (30_encoding.md R30), with zeros in the ignored bits (R41). -/
def encode (i : Instr) : Word :=
  encodeDecoded i.toDecoded

/-- The spec's mnemonics (30_encoding.md R34). -/
def Instr.mnemonic : Instr → String
  | .ldw _ _ => "LDW"
  | .stw _ _ => "STW"
  | .add _ _ => "ADD"
  | .xor _ _ => "XOR"

/-- A register's name, `R` and its decimal index (30_encoding.md R39, 92_eei_decisions.md D15). -/
def regName (i : RegIdx) : String :=
  "R" ++ toString i.toNat

/-- The assembler text of an instruction, destination first (30_encoding.md R39, 92_eei_decisions.md D15). -/
def Instr.text (i : Instr) : String :=
  i.mnemonic ++ " " ++ regName i.toDecoded.op0 ++ ", " ++ regName i.toDecoded.op1

end Sys2Proof
end

