-- ==== Sys2Proof/Machine/State.lean ====
section
/-! DEFINITION. The state: the register file, which is all the spec's block and its caller carry between operations
(10_state.md R18), what the caller is going to present, and what the last operation returned. -/

namespace Sys2Proof.Machine

/-- The register file: `NUM_REGS` registers of 32 bits, none of them hard-wired (10_state.md R10). -/
abbrev RegFile := Vector Word Config.numRegs

/-- What the caller presents for one operation: the input signals `insn` and `exec_req` of 92_eei_decisions.md D8. -/
structure Request where
  /-- The instruction word. -/
  insn    : Word
  /-- True: decode and execute. False: decode only (40_decode.md R61). -/
  execReq : Bool
deriving DecidableEq, Repr

/-- The errors an operation can end with, each with the information it records (60_exceptions.md R100). -/
inductive OpError where
  /-- Raised by the decoder (60_exceptions.md R101). -/
  | registerIndexOutOfRange (field : OperandField) (value : RegIdx)
  /-- Raised by ADD alone, with both operand values (60_exceptions.md R102). -/
  | additionOverflow (a b : Word)
  /-- Raised when LDW, STW or UNKNOWN(n) is executed, with the opcode number (60_exceptions.md R103). -/
  | unsupportedOpcode (n : OpNum)
deriving DecidableEq, Repr

/-- The outcome an operation returns to its caller (41_alu.md R80, 40_decode.md R61, 60_exceptions.md R115). -/
inductive Report where
  /-- A decode-only request succeeded. -/
  | decoded (d : DecodedInstr)
  /-- The instruction was executed successfully. -/
  | executed (d : DecodedInstr)
  /-- The operation ended with an error. -/
  | failed (e : OpError)
deriving DecidableEq, Repr

/-- Every signal of the port list of 92_eei_decisions.md D8, as it stands at the end of an operation
(40_decode.md R62, 41_alu.md R76 to R78, 60_exceptions.md R105). -/
structure Ports where
  insn       : Word
  execReq    : Bool
  rfRdata0   : Word
  rfRdata1   : Word
  decOk      : Bool
  decOpcode  : OpNum
  decOpClass : BitVec 3
  decOp0     : RegIdx
  decOp1     : RegIdx
  rfRaddr0   : RegIdx
  rfRaddr1   : RegIdx
  rfWe       : Bool
  rfWaddr    : RegIdx
  rfWdata    : Word
  errCode    : BitVec 3
  errValue   : RegIdx
  errA       : Word
  errB       : Word
  errOpcode  : OpNum
deriving DecidableEq, Repr

/-- The whole machine: the block with its caller. -/
structure State where
  /-- The register file (10_state.md R10, R18). -/
  regs        : RegFile
  /-- What the caller is going to present, oldest first (20_memory.md R26). -/
  pending     : List Request
  /-- The caller's policy `HOST_STOP_ON_ERROR`: after an error it presents nothing more (92_eei_decisions.md D20). -/
  stopOnError : Bool
  /-- The outcome of the last operation, if there was one (41_alu.md R80). No operation reads it (10_state.md R17). -/
  report      : Option Report
  /-- The signals of the last operation, if there was one (92_eei_decisions.md D8). No operation reads them (R17). -/
  ports       : Option Ports
  /-- The model's own counter of free values, advanced once an operation (notes/assumptions/5.md). -/
  drawIx      : Nat
deriving DecidableEq, Repr

/-- The one way the model's machine stops. No run of `step` reaches it. -/
inductive Fault where
  /-- Raised by `exec` when it is handed, by someone other than `step`, an ADD or XOR whose index `value` in `field` is above
  `MAX_REGISTER_INDEX`: such an instruction is never a decoded one, and the Executor runs only on decoded
  instructions (41_alu.md R74). Safe: the machine stops (notes/assumptions/6.md). -/
  | undecodedOperand (field : OperandField) (value : RegIdx)
deriving DecidableEq, Repr

/-- Why the model would give an instruction no meaning. -/
inductive Refusal where
  /-- Raised by an arm of `exec` whose instruction has no meaning yet: there is none. Safe: the machine stops. -/
  | notModelled (mnemonic : String)
deriving DecidableEq, Repr

/-- The start of a run for any `INITIAL_REGS` and any words the caller is going to present (70_reset_and_hazards.md R121,
R122): nothing else needs setting up. -/
def State.launch (initialRegs : RegFile) (stopOnError : Bool) (requests : List Request) : State where
  regs        := initialRegs
  pending     := requests
  stopOnError := stopOnError
  report      := none
  ports       := none
  drawIx      := 0

/-- The machine right after reset. The spec gives no register a reset value (10_state.md R19): zero is the model's
DESIGN CHOICE (notes/assumptions/1.md), unsafe. Nothing is presented yet (70_reset_and_hazards.md R120,
notes/assumptions/2.md); the caller stops at the first error (92_eei_decisions.md D20). -/
def State.reset : State :=
  State.launch (Vector.replicate Config.numRegs 0#32) true []

end Sys2Proof.Machine
end

