-- ==== Sys2Proof/Machine/Datapath.lean ====
section
/-! DEFINITION. The hardware view of one operation (92_eei_decisions.md D8): every signal as a function of the request, of the register file
as it stood when the operation began, and of the draw counter for the signals the spec leaves open. It is written from
40_decode.md R62, 41_alu.md R76 to R78 and 60_exceptions.md R105, and not from the functional meanings, so that the two can be compared. -/

namespace Sys2Proof.Machine

/-- `dec_ok`: both indices are legal (40_decode.md R58, R62). -/
def decOk (w : Word) : Bool := legalIndex (fieldOp0 w) && legalIndex (fieldOp1 w)

/-- `dec_op_class` of an opcode number (40_decode.md R62): UNKNOWN is 4. -/
def opClass (n : OpNum) : BitVec 3 :=
  if n.toNat < 4 then n.setWidth 3 else 4#3

/-- The operation uses the read data: it executes, decoding succeeded, and the opcode is ADD or XOR (41_alu.md R76, 40_decode.md R61). -/
def readsUsed (r : Request) : Bool :=
  r.execReq && decOk r.insn && (fieldOpcode r.insn == 2#6 || fieldOpcode r.insn == 3#6)

/-- The data of read port 0: `x[op0]` when the operation uses it (41_alu.md R76), else any value (K1.7). -/
def readPort0 (r : Request) (x : RegFile) (k : Nat) : Word :=
  if readsUsed r then x[(fieldOp0 r.insn).toNat]?.getD (Config.openReadData0 k) else Config.openReadData0 k

/-- The data of read port 1: `x[op1]` when the operation uses it (41_alu.md R76), else any value (K1.7). -/
def readPort1 (r : Request) (x : RegFile) (k : Nat) : Word :=
  if readsUsed r then x[(fieldOp1 r.insn).toNat]?.getD (Config.openReadData1 k) else Config.openReadData1 k

/-- `dec_op0`: the op0 field of a decoded word (40_decode.md R62); any value when decoding failed (K1.8, notes/assumptions/7.md). -/
def decIndex0 (w : Word) (k : Nat) : RegIdx :=
  if decOk w then fieldOp0 w else Config.openDecOp0 k

/-- `dec_op1`: the op1 field of a decoded word (40_decode.md R62); any value when decoding failed (K1.8, notes/assumptions/7.md). -/
def decIndex1 (w : Word) (k : Nat) : RegIdx :=
  if decOk w then fieldOp1 w else Config.openDecOp1 k

/-- `rf_we` of the register-write multiplexer (41_alu.md R78). -/
def writeEnable (r : Request) (a b : Word) : Bool :=
  r.execReq && decOk r.insn &&
    ((fieldOpcode r.insn == 2#6 && !addOvf a b) || fieldOpcode r.insn == 3#6)

/-- `rf_wdata` of the register-write multiplexer while `rf_we` is 1: the ALU output the opcode selects (41_alu.md R78). -/
def muxData (n : OpNum) (a b : Word) : Word :=
  if n = 2#6 then addRes a b else xorRes a b

/-- `err_code` (60_exceptions.md R105): a decode error first, op0 before op1 (R106), then what execution raises. Opcodes other than
ADD and XOR are unsupported (41_alu.md R74). -/
def errorCode (r : Request) (a b : Word) : BitVec 3 :=
  if !legalIndex (fieldOp0 r.insn) then 1#3
  else if !legalIndex (fieldOp1 r.insn) then 2#3
  else if !r.execReq then 0#3
  else if fieldOpcode r.insn = 2#6 then (if addOvf a b then 3#3 else 0#3)
  else if fieldOpcode r.insn = 3#6 then 0#3
  else 4#3

/-- `err_value`: the offending index for codes 1 and 2 (60_exceptions.md R105). -/
def errorValue (code : BitVec 3) (w : Word) (k : Nat) : RegIdx :=
  if code = 1#3 then fieldOp0 w else if code = 2#3 then fieldOp1 w else Config.openErrValue k

/-- All signals of one operation (92_eei_decisions.md D8). The read addresses and the write address are the index
fields, an out-of-range index included (41_alu.md R76, R78); of a decoded word they are the decoder's index outputs (40_decode.md R62). -/
def datapath (r : Request) (x : RegFile) (k : Nat) : Ports :=
  let a := readPort0 r x k
  let b := readPort1 r x k
  let code := errorCode r a b
  { insn       := r.insn
    execReq    := r.execReq
    rfRdata0   := a
    rfRdata1   := b
    decOk      := decOk r.insn
    decOpcode  := if decOk r.insn then fieldOpcode r.insn else Config.openDecOpcode k
    decOpClass := if decOk r.insn then opClass (fieldOpcode r.insn) else Config.openOpClass k
    decOp0     := decIndex0 r.insn k
    decOp1     := decIndex1 r.insn k
    rfRaddr0   := fieldOp0 r.insn
    rfRaddr1   := fieldOp1 r.insn
    rfWe       := writeEnable r a b
    rfWaddr    := fieldOp0 r.insn
    rfWdata    := if writeEnable r a b then muxData (fieldOpcode r.insn) a b else Config.openWriteData k
    errCode    := code
    errValue   := errorValue code r.insn k
    errA       := if code = 3#3 then a else Config.openErrA k
    errB       := if code = 3#3 then b else Config.openErrB k
    errOpcode  := if code = 4#3 then fieldOpcode r.insn else Config.openErrOpcode k }

end Sys2Proof.Machine
end

