-- ==== Sys2Proof/Machine/Ops.lean ====
section
/-! DEFINITION. The named operations over the state. The block has no memory (20_memory.md R20), so there are none over memory. -/

namespace Sys2Proof.Machine

/-- `x[i]`; absent for an index above `MAX_REGISTER_INDEX`, which names no register (10_state.md R10). -/
def readReg (s : State) (i : RegIdx) : Option Word := s.regs[i.toNat]?

/-- `x[i] <- v` (00_scope.md R8). -/
def writeReg (i : RegIdx) (v : Word) (s : State) : State :=
  { s with regs := s.regs.setIfInBounds i.toNat v }

/-- The decoder's error as an error of the operation (60_exceptions.md R100, R101). -/
def OpError.ofDecode (e : DecodeError) : OpError := .registerIndexOutOfRange e.field e.value

/-- The error codes of 60_exceptions.md R100 and R105. -/
def OpError.code : OpError → BitVec 3
  | .registerIndexOutOfRange .op0 _ => 1#3
  | .registerIndexOutOfRange .op1 _ => 2#3
  | .additionOverflow _ _ => 3#3
  | .unsupportedOpcode _ => 4#3

/-- What every error does (60_exceptions.md R104): the operation ends, the error is returned, the register file is as it was. There is no
trap entry and nothing is saved (R107), and the block is ready for the next operation (R108), so there is no return from it either.
Whether the caller presents anything more is the caller's policy (92_eei_decisions.md D20). -/
def raise (e : OpError) (s : State) : State :=
  { s with
    report  := some (.failed e)
    pending := if s.stopOnError then [] else s.pending }

/-- The operation ends with `Ok`: the executed instruction is reported (41_alu.md R80, 60_exceptions.md R115). -/
def finish (d : DecodedInstr) (s : State) : State :=
  { s with report := some (.executed d) }

/-- A decode-only operation ends with `Ok`: no register is read or written (40_decode.md R61). -/
def finishDecode (d : DecodedInstr) (s : State) : State :=
  { s with report := some (.decoded d) }

/-- The start of an operation: the request is the next of the caller's, the rest stays with the caller, and the signals of the operation settle
from the request and the register file as it stands (41_alu.md R76, 70_reset_and_hazards.md R124). -/
def accept (r : Request) (rest : List Request) (s : State) : State :=
  { s with
    pending := rest
    ports   := some (datapath r s.regs s.drawIx)
    drawIx  := s.drawIx + 1 }

/-- Nothing is presented: the block waits, and nothing changes (41_alu.md R81, 60_exceptions.md R116; notes/assumptions/2.md). -/
def awaitRequest (s : State) : State := s

/-- The caller presents the word `w` for execution before whatever else it was going to present. -/
def presentWord (w : Word) (s : State) : State :=
  { s with pending := ⟨w, true⟩ :: s.pending }

end Sys2Proof.Machine
end

