-- ==== Sys2Proof/Machine/Operands.lean ====
section
/-! DEFINITION. The one operand form: two direct register indices (30_encoding.md R35). -/

namespace Sys2Proof.Machine

/-- Both sources are read from the register file as it stands before anything is written (70_reset_and_hazards.md R124), then `k` goes on
with their values. An index that the decoder rejects never comes here from `step`; handed to `exec` directly it stops the machine
(notes/assumptions/6.md), op0 named first as in 40_decode.md R58. -/
def withOperands (op0 op1 : RegIdx) (s : State) (k : Word → Word → State) :
    Host.Outcome State Fault Refusal :=
  match readReg s op0 with
  | none => .fault (.undecodedOperand .op0 op0)
  | some a =>
    match readReg s op1 with
    | none => .fault (.undecodedOperand .op1 op1)
    | some b => .next (k a b)

end Sys2Proof.Machine
end

