-- ==== Sys2Proof/Machine/Alu.lean ====
section
/-! DEFINITION. ADD and XOR (41_alu.md). -/

namespace Sys2Proof.Machine

/-- ADD (41_alu.md R70, R71): the checked sum goes to op0, and to op0 alone; an overflow raises AdditionOverflow with both operand
values and writes nothing. -/
def execAdd (op0 op1 : RegIdx) (s : State) : Host.Outcome State Fault Refusal :=
  withOperands op0 op1 s fun a b =>
    if addOverflows a b then raise (.additionOverflow a b) s
    else finish ⟨.add, op0, op1⟩ (writeReg op0 (addValue a b) s)

/-- XOR (41_alu.md R72, R73): never fails. -/
def execXor (op0 op1 : RegIdx) (s : State) : Host.Outcome State Fault Refusal :=
  withOperands op0 op1 s fun a b =>
    finish ⟨.xor, op0, op1⟩ (writeReg op0 (xorValue a b) s)

end Sys2Proof.Machine
end

