-- ==== Sys2Proof/Machine/LoadStore.lean ====
section
/-! DEFINITION. LDW, STW and the unrecognised opcodes: they decode and are never executed (42_ldw_stw_unknown.md). The rejection is loud:
the operation's outcome is an error, never a success and never a no-op (R93). -/

namespace Sys2Proof.Machine

/-- An opcode that the block does not execute: UnsupportedOpcode with its number, no register read, none written (60_exceptions.md R103). -/
def unsupported (n : OpNum) (s : State) : Host.Outcome State Fault Refusal :=
  .next (raise (.unsupportedOpcode n) s)

/-- LDW (42_ldw_stw_unknown.md R90). It has no memory meaning (R94), and its operands play no part. -/
def execLdw (_op0 _op1 : RegIdx) (s : State) : Host.Outcome State Fault Refusal :=
  unsupported 0#6 s

/-- STW (42_ldw_stw_unknown.md R91). It has no memory meaning (R94), and its operands play no part. -/
def execStw (_op0 _op1 : RegIdx) (s : State) : Host.Outcome State Fault Refusal :=
  unsupported 1#6 s

/-- `UNKNOWN(n)` (42_ldw_stw_unknown.md R92), which is no row of the opcode table. -/
def execUnknown (n : OpNum) (_op0 _op1 : RegIdx) (s : State) : Host.Outcome State Fault Refusal :=
  unsupported n s

end Sys2Proof.Machine
end

