-- ==== Sys2Proof/Machine/Dispatch.lean ====
section
/-! DEFINITION. The Executor's dispatch over the opcode table (41_alu.md R74). -/

namespace Sys2Proof.Machine

def exec (i : Instr) (s : State) : Host.Outcome State Fault Refusal :=
  match i with
  | .ldw op0 op1 => Sys2Proof.Machine.execLdw op0 op1 s
  | .stw op0 op1 => Sys2Proof.Machine.execStw op0 op1 s
  | .add op0 op1 => Sys2Proof.Machine.execAdd op0 op1 s
  | .xor op0 op1 => Sys2Proof.Machine.execXor op0 op1 s

end Sys2Proof.Machine
end

