-- ==== Sys2Proof/Machine/Operation.lean ====
section
/-! DEFINITION. One complete operation: decode, then execute if the caller asks for it (41_alu.md R80). -/

namespace Sys2Proof.Machine

/-- `apply` of 41_alu.md R74: every decoded instruction, `UNKNOWN(n)` included. -/
def applyDecoded (d : DecodedInstr) (s : State) : Host.Outcome State Fault Refusal :=
  match d.toInstr? with
  | some i => exec i s
  | none => execUnknown d.opcode.number d.op0 d.op1 s

/-- One operation on an accepted request (41_alu.md R80; decode only: 40_decode.md R61). Decode errors come before execution errors
(60_exceptions.md R106). -/
def operate (r : Request) (s : State) : Host.Outcome State Fault Refusal :=
  match disassemble r.insn with
  | .error e => .next (raise (.ofDecode e) s)
  | .ok d => if r.execReq then applyDecoded d s else .next (finishDecode d s)

end Sys2Proof.Machine
end

