-- ==== Sys2Proof/Machine/Step.lean ====
section
/-! DEFINITION. One step is one operation on the next request of the caller (70_reset_and_hazards.md R126). -/

namespace Sys2Proof.Machine

/-- The caller presents its requests one at a time, in order (20_memory.md R26); while it presents none the block waits. -/
def step (s : State) : Host.Outcome State Fault Refusal :=
  match s.pending with
  | [] => .next (awaitRequest s)
  | r :: rest => operate r (accept r rest s)

/-- The caller presents, before anything else, the word whose low `nbits` bits are those of `w`, every bit above them 0, and asks
for it to be executed (notes/assumptions/2.md). -/
def State.withFetchWord (s : State) (nbits w : Nat) : State :=
  presentWord (BitVec.ofNat 32 (w % 2 ^ nbits)) s

end Sys2Proof.Machine
end

