-- ==== Sys2Proof/Safety.lean ====
section
/-! DEFINITION. The words that claims use: what an operation leaves alone, when the returned outcome and the signals tell the same story, and
the whole block written once more as one function, in plain arithmetic, for claims of refinement. -/

namespace Sys2Proof.Machine

/-- Every register but `d` reads as before. -/
def OtherRegsKept (d : RegIdx) (s t : State) : Prop :=
  ∀ j : RegIdx, j ≠ d → readReg t j = readReg s j

/-- What `exec` leaves alone whatever the instruction: the caller's policy, the signals and the draw counter. -/
def PolicyAndSignalsKept (s t : State) : Prop :=
  t.stopOnError = s.stopOnError ∧ t.ports = s.ports ∧ t.drawIx = s.drawIx

/-- The decoder's signals describe the decoded instruction `d` (40_decode.md R62). -/
def PortsShowDecoded (p : Ports) (d : DecodedInstr) : Prop :=
  p.decOk = true ∧ p.decOpcode = d.opcode.number ∧ p.decOp0 = d.op0 ∧ p.decOp1 = d.op1 ∧
    p.decOpClass = opClass d.opcode.number

/-- The signals report the error `e`: its code, and the information that this code names (60_exceptions.md R105). -/
def PortsShowError (p : Ports) : OpError → Prop
  | .registerIndexOutOfRange .op0 v => p.decOk = false ∧ p.errCode = 1#3 ∧ p.errValue = v
  | .registerIndexOutOfRange .op1 v => p.decOk = false ∧ p.errCode = 2#3 ∧ p.errValue = v
  | .additionOverflow a b =>
      p.decOk = true ∧ p.execReq = true ∧ p.decOpcode = 2#6 ∧ p.errCode = 3#3 ∧ p.errA = a ∧ p.errB = b ∧
        2 ^ 32 ≤ a.toNat + b.toNat
  | .unsupportedOpcode n =>
      p.decOk = true ∧ p.execReq = true ∧ p.errCode = 4#3 ∧ p.errOpcode = n ∧ p.decOpcode = n ∧ n ≠ 2#6 ∧ n ≠ 3#6

/-- The outcome returned and the signals tell the same story (60_exceptions.md R105, 41_alu.md R78, R79). -/
def PortsShowReport (p : Ports) : Report → Prop
  | .decoded d => PortsShowDecoded p d ∧ p.execReq = false ∧ p.rfWe = false ∧ p.errCode = 0#3
  | .executed d =>
      PortsShowDecoded p d ∧ p.execReq = true ∧ p.rfWe = true ∧ p.rfWaddr = d.op0 ∧ p.errCode = 0#3 ∧
        (d.opcode = .add ∨ d.opcode = .xor)
  | .failed e => PortsShowError p e ∧ p.rfWe = false

/-- A state is coherent if it holds an outcome exactly when it holds signals, and they tell the same story. -/
def Coherent (s : State) : Prop :=
  match s.report, s.ports with
  | none, none => True
  | some r, some p => PortsShowReport p r
  | _, _ => False

/-- The whole block as one function of the word and the register file (41_alu.md R80), written in the arithmetic of natural numbers straight from
30_encoding.md R32, 40_decode.md R58, 41_alu.md R70, R72 and R74, and sharing nothing with the decoder or the meanings. -/
def blockFunction (w : Word) (x : RegFile) : Except OpError RegFile :=
  if h0 : w.toNat / 64 % 32 < Config.numRegs then
    if h1 : w.toNat / 2048 % 32 < Config.numRegs then
      if w.toNat % 64 = 2 then
        if x[w.toNat / 64 % 32].toNat + x[w.toNat / 2048 % 32].toNat < 4294967296 then
          .ok (x.set (w.toNat / 64 % 32)
            (BitVec.ofNat 32 (x[w.toNat / 64 % 32].toNat + x[w.toNat / 2048 % 32].toNat)))
        else .error (.additionOverflow x[w.toNat / 64 % 32] x[w.toNat / 2048 % 32])
      else if w.toNat % 64 = 3 then
        .ok (x.set (w.toNat / 64 % 32) (x[w.toNat / 64 % 32] ^^^ x[w.toNat / 2048 % 32]))
      else .error (.unsupportedOpcode (BitVec.ofNat 6 (w.toNat % 64)))
    else .error (.registerIndexOutOfRange .op1 (BitVec.ofNat 5 (w.toNat / 2048 % 32)))
  else .error (.registerIndexOutOfRange .op0 (BitVec.ofNat 5 (w.toNat / 64 % 32)))

end Sys2Proof.Machine
end

