-- ==== Sys2Proof/Certificates/Slice0/Obligations.lean ====
section
/-! DEFINITION. The statements for the provers. Each docstring names the rule of spec/ that a statement formalises, or the decision of
92_eei_decisions.md or the log entry that it rests on. -/

open Sys2Proof Sys2Proof.Machine

/-! ## The word and the decoder -/

/-- 30_encoding.md section 4 (its assembler) and 40_decode.md: every well-formed instruction decodes from its own word. The field positions are the
spec's decisions D1 and D2. -/
def Obligations.DecodeOfEncode : Prop :=
  ∀ i : Instr, i.wellFormed = true → decode (encode i) = some i

/-- The same for every decoded instruction, `UNKNOWN(n)` for n in 4..63 included (the spec's decisions D1, D2, D4). -/
def Obligations.DisassembleOfEncodeDecoded : Prop :=
  ∀ d : DecodedInstr, d.wellFormed = true → disassemble (encodeDecoded d) = .ok d

/-- The other direction: what a word decodes to is well formed, and encoding it gives the word back but for the ignored bits 31:16, which become
zeros (the spec's decisions D1, D2). -/
def Obligations.EncodeOfDisassemble : Prop :=
  ∀ (w : Word) (d : DecodedInstr), disassemble w = .ok d →
    d.wellFormed = true ∧ (encodeDecoded d).toNat = w.toNat % 65536

/-- 40_decode.md R52: the opcode map. -/
def Obligations.OpcodeMap : Prop :=
  opcodeOf 0#6 = .ldw ∧ opcodeOf 1#6 = .stw ∧ opcodeOf 2#6 = .add ∧ opcodeOf 3#6 = .xor ∧
    ∀ n : OpNum, 4 ≤ n.toNat → opcodeOf n = .unknown n

/-- 40_decode.md R59: the decoder succeeds on every word whose two index fields are legal, with the fields as they stand. -/
def Obligations.DecodeSucceedsOnLegalFields : Prop :=
  ∀ w : Word, w.toNat / 64 % 32 ≤ Config.maxRegisterIndex → w.toNat / 2048 % 32 ≤ Config.maxRegisterIndex →
    ∃ d, disassemble w = .ok d ∧ d.op0.toNat = w.toNat / 64 % 32 ∧ d.op1.toNat = w.toNat / 2048 % 32 ∧
      d.opcode = opcodeOf (BitVec.ofNat 6 (w.toNat % 64))

/-- 40_decode.md R60: the decoder fails on every word with an illegal index field. -/
def Obligations.DecodeFailsOnIllegalField : Prop :=
  ∀ w : Word, w.toNat / 64 % 32 > Config.maxRegisterIndex ∨ w.toNat / 2048 % 32 > Config.maxRegisterIndex →
    ∃ e, disassemble w = .error e

/-- 40_decode.md R55: a successful decode returns legal indices, each exactly its field. -/
def Obligations.DecodedIndicesAreLegalFields : Prop :=
  ∀ (w : Word) (d : DecodedInstr), disassemble w = .ok d →
    d.op0.toNat ≤ Config.maxRegisterIndex ∧ d.op1.toNat ≤ Config.maxRegisterIndex ∧
      d.op0.toNat = w.toNat / 64 % 32 ∧ d.op1.toNat = w.toNat / 2048 % 32

/-- The error names the offending field and its value; when both offend it names op0 (the spec's decision D6). -/
def Obligations.DecodeErrorNamesTheField : Prop :=
  ∀ (w : Word) (e : DecodeError), disassemble w = .error e ↔
    (w.toNat / 64 % 32 > Config.maxRegisterIndex ∧ e.field = .op0 ∧ e.value.toNat = w.toNat / 64 % 32) ∨
    (w.toNat / 64 % 32 ≤ Config.maxRegisterIndex ∧ w.toNat / 2048 % 32 > Config.maxRegisterIndex ∧
      e.field = .op1 ∧ e.value.toNat = w.toNat / 2048 % 32)

/-- Two words that differ only in bits 31:16 decode alike and execute alike (the spec's decision D2). -/
def Obligations.IgnoredBitsPlayNoPart : Prop :=
  ∀ (w v : Word), w.toNat % 65536 = v.toNat % 65536 →
    disassemble w = disassemble v ∧
    ∀ (s : State) (execReq : Bool) (rest : List Request), ∃ t u,
      step { s with pending := ⟨w, execReq⟩ :: rest } = .next t ∧
      step { s with pending := ⟨v, execReq⟩ :: rest } = .next u ∧
      t.regs = u.regs ∧ t.report = u.report ∧ t.pending = u.pending

/-- The source's worked examples S1 to S6 of 95_test_vectors.md, decoded. -/
def Obligations.SourceExamplesDecode : Prop :=
  disassemble 0x1842#32 = .ok ⟨.add, 1#5, 3#5⟩ ∧
  disassemble 0x5002#32 = .error ⟨.op1, 10#5⟩ ∧
  disassemble 0x20a#32 = .error ⟨.op0, 8#5⟩ ∧
  disassemble 0x0800#32 = .ok ⟨.ldw, 0#5, 1#5⟩ ∧
  disassemble 0x1883#32 = .ok ⟨.xor, 2#5, 3#5⟩ ∧
  disassemble 0x0141#32 = .ok ⟨.stw, 5#5, 0#5⟩

/-! ## The instructions -/

/-- 10_state.md section 1: an index names a register exactly when it is legal (MAX_REGISTER_INDEX is the spec's decision D3). -/
def Obligations.LegalIndexNamesARegister : Prop :=
  ∀ (s : State) (i : RegIdx), legalIndex i = true ↔ ∃ v, readReg s i = some v

/-- 41_alu.md R70: ADD. Its word; without overflow the exact sum goes to op0 and to op0 alone; at 2^32 or more it raises AdditionOverflow with
both operands and no register is written. There are no flags to write. What R70 does not say is the model's: which requests the caller has left after
an overflow is its policy (the spec's decision D20, notes/assumptions/4.md), and the requests, signals and draw counter are fields of
notes/assumptions/2.md, 3.md and 5.md. -/
def Obligations.AddIsCheckedAddition : Prop :=
  (∀ op0 op1 : RegIdx, legalIndex op0 = true → legalIndex op1 = true →
    decode (BitVec.ofNat 32 (2 ||| op0.toNat <<< 6 ||| op1.toNat <<< 11)) = some (.add op0 op1)) ∧
  ∀ (op0 op1 : RegIdx) (s : State) (a b : Word), readReg s op0 = some a → readReg s op1 = some b →
    (a.toNat + b.toNat < 2 ^ 32 →
      ∃ t v, exec (.add op0 op1) s = .next t ∧ readReg t op0 = some v ∧ v.toNat = a.toNat + b.toNat ∧
        OtherRegsKept op0 s t ∧ t.report = some (.executed ⟨.add, op0, op1⟩) ∧
        t.pending = s.pending ∧ PolicyAndSignalsKept s t) ∧
    (2 ^ 32 ≤ a.toNat + b.toNat →
      ∃ t, exec (.add op0 op1) s = .next t ∧ t.regs = s.regs ∧
        t.report = some (.failed (.additionOverflow a b)) ∧
        t.pending = (if s.stopOnError then [] else s.pending) ∧ PolicyAndSignalsKept s t)

/-- 60_exceptions.md R102: AdditionOverflow comes from ADD alone, exactly when the sum does not fit, with both operands in their order, and leaves the
register file unchanged. -/
def Obligations.OverflowIsRaisedByAddAlone : Prop :=
  ∀ (i : Instr) (s t : State) (a b : Word), exec i s = .next t →
    (t.report = some (.failed (.additionOverflow a b)) ↔
      ∃ op0 op1, i = .add op0 op1 ∧ readReg s op0 = some a ∧ readReg s op1 = some b ∧
        2 ^ 32 ≤ a.toNat + b.toNat) ∧
    (t.report = some (.failed (.additionOverflow a b)) → t.regs = s.regs)

/-- 41_alu.md R71: the corner cases of ADD: the same register twice, the two sides of the boundary, adding zero, a sum of
zero, op1 never written, and the order of the arguments. -/
def Obligations.AddCornerCases : Prop :=
  (∀ (i : RegIdx) (s : State) (v : Word), readReg s i = some v → v.toNat < 0x80000000 →
    ∃ t u, exec (.add i i) s = .next t ∧ readReg t i = some u ∧ u.toNat = 2 * v.toNat) ∧
  (∀ (i : RegIdx) (s : State) (v : Word), readReg s i = some v → 0x80000000 ≤ v.toNat →
    ∃ t, exec (.add i i) s = .next t ∧ t.report = some (.failed (.additionOverflow v v)) ∧ t.regs = s.regs) ∧
  (∀ (p q : RegIdx) (s : State) (a b : Word), readReg s p = some a → readReg s q = some b →
    a.toNat + b.toNat = 0xFFFFFFFF →
    ∃ t, exec (.add p q) s = .next t ∧ readReg t p = some 0xFFFFFFFF#32 ∧
      t.report = some (.executed ⟨.add, p, q⟩)) ∧
  (∀ (p q : RegIdx) (s : State) (a b : Word), readReg s p = some a → readReg s q = some b →
    a.toNat + b.toNat = 0x100000000 →
    ∃ t, exec (.add p q) s = .next t ∧ t.regs = s.regs ∧
      t.report = some (.failed (.additionOverflow a b))) ∧
  (∀ (p q : RegIdx) (s : State) (a : Word), readReg s p = some a → readReg s q = some 0#32 →
    ∃ t, exec (.add p q) s = .next t ∧ readReg t p = some a ∧ t.report = some (.executed ⟨.add, p, q⟩)) ∧
  (∀ (p q : RegIdx) (s t : State), exec (.add p q) s = .next t → t.report = some (.executed ⟨.add, p, q⟩) →
    readReg t p = some 0#32 → readReg s p = some 0#32 ∧ readReg s q = some 0#32) ∧
  (∀ (p q : RegIdx) (s t : State), p ≠ q → exec (.add p q) s = .next t → readReg t q = readReg s q) ∧
  (∀ (p q : RegIdx) (s t u : State), p ≠ q → exec (.add p q) s = .next t → exec (.add q p) s = .next u →
    t.report = some (.executed ⟨.add, p, q⟩) →
    u.report = some (.executed ⟨.add, q, p⟩) ∧ readReg t p = readReg u q ∧ OtherRegsKept p s t ∧ OtherRegsKept q s u)

/-- 41_alu.md R72: XOR. Its word; the exclusive-or goes to op0 and to op0 alone; it never fails. There are no flags to write. What R72
does not say is the model's: the requests, the caller's policy, the signals and the draw counter, which stay as they are, are fields of
notes/assumptions/2.md, 4.md, 3.md and 5.md. -/
def Obligations.XorIsExclusiveOr : Prop :=
  (∀ op0 op1 : RegIdx, legalIndex op0 = true → legalIndex op1 = true →
    decode (BitVec.ofNat 32 (3 ||| op0.toNat <<< 6 ||| op1.toNat <<< 11)) = some (.xor op0 op1)) ∧
  ∀ (op0 op1 : RegIdx) (s : State) (a b : Word), readReg s op0 = some a → readReg s op1 = some b →
    ∃ t v, exec (.xor op0 op1) s = .next t ∧ readReg t op0 = some v ∧
      (∀ k, k < 32 → v.getLsbD k = (a.getLsbD k != b.getLsbD k)) ∧
      OtherRegsKept op0 s t ∧ t.report = some (.executed ⟨.xor, op0, op1⟩) ∧
      t.pending = s.pending ∧ PolicyAndSignalsKept s t

/-- 41_alu.md R73: the corner cases of XOR: the same register twice, zero, all ones, op1 never written, symmetric in its two values, and op0 alone
written. -/
def Obligations.XorCornerCases : Prop :=
  (∀ (i : RegIdx) (s : State) (v : Word), readReg s i = some v →
    ∃ t, exec (.xor i i) s = .next t ∧ readReg t i = some 0#32) ∧
  (∀ (p q : RegIdx) (s : State) (a : Word), readReg s p = some a → readReg s q = some 0#32 →
    ∃ t, exec (.xor p q) s = .next t ∧ readReg t p = some a) ∧
  (∀ (p q : RegIdx) (s : State) (a : Word), readReg s p = some a → readReg s q = some 0xFFFFFFFF#32 →
    ∃ t, exec (.xor p q) s = .next t ∧ readReg t p = some (~~~a)) ∧
  (∀ (p q : RegIdx) (s t : State), p ≠ q → exec (.xor p q) s = .next t → readReg t q = readReg s q) ∧
  (∀ (p q : RegIdx) (s t u : State), exec (.xor p q) s = .next t → exec (.xor q p) s = .next u →
    readReg t p = readReg u q ∧ OtherRegsKept p s t)

/-- 42_ldw_stw_unknown.md on LDW: executing LDW always ends with UnsupportedOpcode(0), whatever the registers hold, and no register
changes. The typed error is the spec's decision D5; that it is a next state is notes/assumptions/3.md; which requests the caller has left is its
policy (the spec's decision D20, notes/assumptions/4.md). -/
def Obligations.LdwIsRejectedUnchanged : Prop :=
  ∀ (op0 op1 : RegIdx) (s : State), ∃ t, exec (.ldw op0 op1) s = .next t ∧ t.regs = s.regs ∧
    t.report = some (.failed (.unsupportedOpcode 0#6)) ∧
    t.pending = (if s.stopOnError then [] else s.pending) ∧ PolicyAndSignalsKept s t

/-- 42_ldw_stw_unknown.md on STW: executing STW always ends with UnsupportedOpcode(1), whatever the registers hold, and no register
changes. The typed error is the spec's decision D5; that it is a next state is notes/assumptions/3.md; which requests the caller has left is its
policy (the spec's decision D20, notes/assumptions/4.md). -/
def Obligations.StwIsRejectedUnchanged : Prop :=
  ∀ (op0 op1 : RegIdx) (s : State), ∃ t, exec (.stw op0 op1) s = .next t ∧ t.regs = s.regs ∧
    t.report = some (.failed (.unsupportedOpcode 1#6)) ∧
    t.pending = (if s.stopOnError then [] else s.pending) ∧ PolicyAndSignalsKept s t

/-- The model's choice (notes/assumptions/6.md): handed to `exec` without the decoder, an ADD or XOR with an illegal index stops with a fault
that names the first illegal index. -/
def Obligations.UndecodedOperandFaults : Prop :=
  ∀ (op0 op1 : RegIdx) (s : State),
    (legalIndex op0 = false →
      exec (.add op0 op1) s = .fault (.undecodedOperand .op0 op0) ∧
      exec (.xor op0 op1) s = .fault (.undecodedOperand .op0 op0)) ∧
    (legalIndex op0 = true → legalIndex op1 = false →
      exec (.add op0 op1) s = .fault (.undecodedOperand .op1 op1) ∧
      exec (.xor op0 op1) s = .fault (.undecodedOperand .op1 op1))

/-! ## One operation -/

/-- A presented word that decodes to an instruction of the table runs that instruction. What stands around `exec` is the model's choice and no rule of
the spec: the request is taken from the caller's list (notes/assumptions/2.md), the signals of the port list (the spec's decision D8) are kept
(notes/assumptions/3.md), and the draw counter advances (notes/assumptions/5.md). Nothing else does. -/
def Obligations.StepRunsTheDecodedInstruction : Prop :=
  ∀ (s : State) (w : Word) (rest : List Request) (i : Instr),
    s.pending = ⟨w, true⟩ :: rest → decode w = some i → i.wellFormed = true →
    step s = exec i { s with
      pending := rest
      ports   := some (datapath ⟨w, true⟩ s.regs s.drawIx)
      drawIx  := s.drawIx + 1 }

/-- Every step of every state answers a next state: no word, no register contents and no request stop the machine. That an error of the block is a
next state is notes/assumptions/3.md; that waiting is one is notes/assumptions/2.md. -/
def Obligations.EveryStepAnswersNext : Prop :=
  ∀ s : State, ∃ t, step s = .next t

/-- 41_alu.md section 4: an operation is a decode, then an execute. On an error of either the register file is exactly as before; on success it differs at
most at op0. The state that is executed in is the model's: the request taken from the list (notes/assumptions/2.md), the signals kept (the
spec's decision D8, notes/assumptions/3.md) and the draw counter advanced (notes/assumptions/5.md). -/
def Obligations.OperationIsDecodeThenExecute : Prop :=
  ∀ (s : State) (w : Word) (rest : List Request), s.pending = ⟨w, true⟩ :: rest →
    ∃ t, step s = .next t ∧
      (∀ e, disassemble w = .error e →
        t.report = some (.failed (.registerIndexOutOfRange e.field e.value)) ∧ t.regs = s.regs) ∧
      (∀ d, disassemble w = .ok d →
        applyDecoded d { s with
          pending := rest
          ports   := some (datapath ⟨w, true⟩ s.regs s.drawIx)
          drawIx  := s.drawIx + 1 } = .next t ∧
        ((∃ e, t.report = some (.failed e) ∧ t.regs = s.regs) ∨
          (t.report = some (.executed d) ∧ OtherRegsKept d.op0 s t)))

/-- The machine refines the whole block written as one arithmetic function of the word and the register file. Through that function the statement rests on
the spec's decisions D1 to D6. That the rest of the requests stand is notes/assumptions/2.md, and that an error is a next state is notes/assumptions/3.md. -/
def Obligations.StepRefinesBlockFunction : Prop :=
  ∀ (s : State) (w : Word) (rest : List Request), s.pending = ⟨w, true⟩ :: rest →
    ∃ t, step s = .next t ∧
      match blockFunction w s.regs with
      | .ok x => t.regs = x ∧ t.pending = rest ∧ ∃ d, disassemble w = .ok d ∧ t.report = some (.executed d)
      | .error e => t.regs = s.regs ∧ t.report = some (.failed e)

/-- 60_exceptions.md R104: whatever error an operation ends with, the register file is exactly as it was when it began, and the error is returned.
That the caller's policy is as it was too is not R104's: the policy is a field of the model (the spec's decision D20, notes/assumptions/4.md). -/
def Obligations.ErrorLeavesNoPartialEffect : Prop :=
  ∀ (s t : State) (r : Request) (rest : List Request) (e : OpError),
    s.pending = r :: rest → step s = .next t → t.report = some (.failed e) →
    t.regs = s.regs ∧ t.stopOnError = s.stopOnError

/-- 41_alu.md section 3: a successful ADD or XOR writes exactly one register, op0; every other outcome writes none. The clauses on `rf_we`, `rf_waddr` and
`rf_wdata` rest on the spec's decision D8 (the port list, notes/assumptions/8.md). -/
def Obligations.AtMostOneRegisterIsWritten : Prop :=
  ∀ (s t : State) (r : Request) (rest : List Request), s.pending = r :: rest → step s = .next t →
    (∀ d, t.report = some (.executed d) →
      (d.opcode = .add ∨ d.opcode = .xor) ∧ OtherRegsKept d.op0 s t ∧
      ∃ p, t.ports = some p ∧ p.rfWe = true ∧ p.rfWaddr = d.op0 ∧ readReg t d.op0 = some p.rfWdata) ∧
    ((∀ d, t.report ≠ some (.executed d)) →
      t.regs = s.regs ∧ ∃ p, t.ports = some p ∧ p.rfWe = false)

/-- 70_reset_and_hazards.md R124: both sources are read as they stood at the start of the operation, also when op1 is op0, and also at the read ports. -/
def Obligations.SourcesAreReadBeforeTheWrite : Prop :=
  ∀ (s t : State) (w : Word) (rest : List Request) (op0 op1 : RegIdx) (a b : Word),
    s.pending = ⟨w, true⟩ :: rest → readReg s op0 = some a → readReg s op1 = some b → step s = .next t →
    (decode w = some (.add op0 op1) →
      (∃ p, t.ports = some p ∧ p.rfRdata0 = a ∧ p.rfRdata1 = b) ∧
      (t.report = some (.executed ⟨.add, op0, op1⟩) →
        ∃ v, readReg t op0 = some v ∧ v.toNat = a.toNat + b.toNat)) ∧
    (decode w = some (.xor op0 op1) →
      (∃ p, t.ports = some p ∧ p.rfRdata0 = a ∧ p.rfRdata1 = b) ∧ readReg t op0 = some (a ^^^ b))

/-- 40_decode.md R61: a decode-only operation answers the decoder's result, and reads and writes no register. -/
def Obligations.DecodeOnlyTouchesNoRegister : Prop :=
  ∀ (s : State) (w : Word) (rest : List Request), s.pending = ⟨w, false⟩ :: rest →
    ∃ t, step s = .next t ∧ t.regs = s.regs ∧
      (∀ d, disassemble w = .ok d → t.report = some (.decoded d)) ∧
      (∀ e, disassemble w = .error e →
        t.report = some (.failed (.registerIndexOutOfRange e.field e.value)))

/-- UnsupportedOpcode(n) is reported exactly for a word that decodes, was to be executed, and has an opcode number n that is neither ADD's nor XOR's: LDW, STW
and every unrecognised number alike (the spec's decisions D4 and D5). -/
def Obligations.UnsupportedExactlyForUnexecutable : Prop :=
  ∀ (s t : State) (r : Request) (rest : List Request) (n : OpNum), s.pending = r :: rest → step s = .next t →
    (t.report = some (.failed (.unsupportedOpcode n)) ↔
      r.execReq = true ∧ r.insn.toNat / 64 % 32 ≤ Config.maxRegisterIndex ∧
        r.insn.toNat / 2048 % 32 ≤ Config.maxRegisterIndex ∧
        n.toNat = r.insn.toNat % 64 ∧ n ≠ 2#6 ∧ n ≠ 3#6)

/-- Decode errors come before execution errors, whatever the opcode and the registers, and op0 before op1 (60_exceptions.md section 2; the order of the
fields is the spec's decision D6). -/
def Obligations.DecodeErrorsComeFirst : Prop :=
  ∀ (s : State) (r : Request) (rest : List Request), s.pending = r :: rest →
    (r.insn.toNat / 64 % 32 > Config.maxRegisterIndex →
      ∃ t, step s = .next t ∧ t.regs = s.regs ∧
        t.report = some (.failed (.registerIndexOutOfRange .op0 (fieldOp0 r.insn)))) ∧
    (r.insn.toNat / 64 % 32 ≤ Config.maxRegisterIndex → r.insn.toNat / 2048 % 32 > Config.maxRegisterIndex →
      ∃ t, step s = .next t ∧ t.regs = s.regs ∧
        t.report = some (.failed (.registerIndexOutOfRange .op1 (fieldOp1 r.insn))))

/-- An operation is a function of the input word and the register file: whatever was reported, signalled, or left with the caller before plays no part in
the outcome or in the registers afterwards (10_state.md section 7, which marks this as derived). -/
def Obligations.OutcomeIgnoresHistory : Prop :=
  ∀ (s s' t t' : State) (r : Request) (rest rest' : List Request),
    s.pending = r :: rest → s'.pending = r :: rest' → s.regs = s'.regs →
    step s = .next t → step s' = .next t' →
    t.report = t'.report ∧ t.regs = t'.regs

/-- After an error the block is ready for the caller's next request; the caller of 92_eei_decisions.md D20 presents nothing more, any other goes on
(notes/assumptions/4.md). After a success the rest of the requests stand (notes/assumptions/2.md). -/
def Obligations.CallerStopsOnlyByItsPolicy : Prop :=
  ∀ (s t : State) (r : Request) (rest : List Request), s.pending = r :: rest → step s = .next t →
    ((∃ e, t.report = some (.failed e)) → t.pending = if s.stopOnError then [] else rest) ∧
    ((∀ e, t.report ≠ some (.failed e)) → t.pending = rest)

/-- While the caller presents nothing a step changes nothing: the model's reading of 41_alu.md section 4 ("waits"), notes/assumptions/2.md. -/
def Obligations.IdleBlockWaits : Prop :=
  ∀ s : State, s.pending = [] → step s = .next s

/-! ## The hardware view -/

/-- The 33-bit sum of the ALU tells exactly the overflow of the checked addition, and its low 32 bits are the sum when there is none (41_alu.md section 3, which
marks this as derived). -/
def Obligations.CarryIsOverflow : Prop :=
  ∀ a b : Word, (addOvf a b = true ↔ 2 ^ 32 ≤ a.toNat + b.toNat) ∧
    (addRes a b).toNat = (a.toNat + b.toNat) % 2 ^ 32

/-- The write port and the functional step agree: the register file after an operation is the one before with `rf_wdata` at `rf_waddr` when `rf_we` is 1, and the one
before when it is 0 (the port list is the spec's decision D8). -/
def Obligations.WritePortGivesTheRegisterFile : Prop :=
  ∀ (s t : State) (r : Request) (rest : List Request), s.pending = r :: rest → step s = .next t →
    ∃ p, t.ports = some p ∧ p.insn = r.insn ∧ p.execReq = r.execReq ∧
      (p.rfWe = true → legalIndex p.rfWaddr = true ∧ readReg t p.rfWaddr = some p.rfWdata ∧
        OtherRegsKept p.rfWaddr s t) ∧
      (p.rfWe = false → t.regs = s.regs)

/-- `err_code` is never 5, 6 or 7 (60_exceptions.md section 1; the codes are the spec's decision D7). -/
def Obligations.ErrorCodesStayDefined : Prop :=
  ∀ (r : Request) (x : RegFile) (k : Nat), (datapath r x k).errCode.toNat ≤ 4

/-- The returned outcome and the signals tell the same story, and every step keeps it so (the signals are the spec's decisions D7 and D8). -/
def Obligations.StepKeepsCoherence : Prop :=
  ∀ s t : State, Coherent s → step s = .next t → Coherent t

/-- The state after reset is coherent, and it holds neither an outcome nor signals. That outcome and signals are absent before the first operation is the model's choice (notes/assumptions/3.md). -/
def Obligations.ResetIsCoherent : Prop :=
  Coherent State.reset ∧ State.reset.report = none ∧ State.reset.ports = none

/-! ## Start -/

/-- The start: eight registers, all zero by the model's own choice (notes/assumptions/1.md: the spec gives no reset value), nothing
presented and no outcome yet (notes/assumptions/2.md and 3.md), a caller that stops at the first error (the spec's decision D20, notes/assumptions/4.md), and any other start differs only in what the caller supplies (92_eei_decisions.md D16, D17). -/
def Obligations.StartIsTheCallersChoice : Prop :=
  State.reset = State.launch (Vector.replicate 8 0#32) true [] ∧
  (∀ i : RegIdx, i.toNat < 8 → readReg State.reset i = some 0#32) ∧
  ∀ (x : RegFile) (stop : Bool) (rs : List Request),
    State.launch x stop rs = { State.reset with regs := x, stopOnError := stop, pending := rs }
end

