-- ==== Sys2Proof/Laws/Decode.lean ====
section
/-! SUPPORT. The fields of a word as numbers, the fields of an encoded word, and everything the decoder can answer. -/

namespace Sys2Proof

theorem fieldOpcode_toNat (w : Word) : (fieldOpcode w).toNat = w.toNat % 64 := by
  simp [fieldOpcode]

theorem fieldOp0_toNat (w : Word) : (fieldOp0 w).toNat = w.toNat / 64 % 32 := by
  simp [fieldOp0, Nat.shiftRight_eq_div_pow]

theorem fieldOp1_toNat (w : Word) : (fieldOp1 w).toNat = w.toNat / 2048 % 32 := by
  simp [fieldOp1, Nat.shiftRight_eq_div_pow]

theorem legalIndex_iff (i : RegIdx) : legalIndex i = true ↔ i.toNat ≤ Config.maxRegisterIndex := by
  simp [legalIndex]

/-- An encoded word as a number: each field at its place, nothing above them. -/
theorem encodeFields_toNat (n : OpNum) (op0 op1 : RegIdx) :
    (encodeFields n op0 op1).toNat = n.toNat + 64 * op0.toNat + 2048 * op1.toNat := by
  have h0 := op0.isLt
  have hn := n.isLt
  unfold encodeFields
  rw [BitVec.toNat_append, BitVec.toNat_append, BitVec.toNat_append,
    ← Nat.shiftLeft_add_eq_or_of_lt hn, ← Nat.shiftLeft_add_eq_or_of_lt h0]
  simp [Nat.shiftLeft_eq]
  omega

@[simp] theorem fieldOpcode_encodeFields (n : OpNum) (op0 op1 : RegIdx) :
    fieldOpcode (encodeFields n op0 op1) = n := by
  apply BitVec.eq_of_toNat_eq
  rw [fieldOpcode_toNat, encodeFields_toNat]
  omega

@[simp] theorem fieldOp0_encodeFields (n : OpNum) (op0 op1 : RegIdx) :
    fieldOp0 (encodeFields n op0 op1) = op0 := by
  apply BitVec.eq_of_toNat_eq
  rw [fieldOp0_toNat, encodeFields_toNat]
  omega

@[simp] theorem fieldOp1_encodeFields (n : OpNum) (op0 op1 : RegIdx) :
    fieldOp1 (encodeFields n op0 op1) = op1 := by
  apply BitVec.eq_of_toNat_eq
  rw [fieldOp1_toNat, encodeFields_toNat]
  omega

/-- The opcode map undoes the numbering of every opcode that the decoder can answer. -/
theorem opcodeOf_number (c : OpCode) (h : c.wellFormed = true) : opcodeOf c.number = c := by
  cases c with
  | unknown n =>
    simp only [OpCode.wellFormed, decide_eq_true_eq] at h
    have h0 : n ≠ 0#6 := by rintro rfl; simp at h
    have h1 : n ≠ 1#6 := by rintro rfl; simp at h
    have h2 : n ≠ 2#6 := by rintro rfl; simp at h
    have h3 : n ≠ 3#6 := by rintro rfl; simp at h
    simp [OpCode.number, opcodeOf, h0, h1, h2, h3]
  | _ => rfl

theorem number_opcodeOf (n : OpNum) : (opcodeOf n).number = n := by
  unfold opcodeOf
  split_ifs with h0 h1 h2 h3 <;> simp_all [OpCode.number]

/-- The opcode map answers only opcodes that the decoder may answer. -/
theorem opcodeOf_wellFormed : ∀ n : OpNum, (opcodeOf n).wellFormed = true := by decide

/-- Everything the decoder can answer: an error for op0, an error for op1 with op0 legal, or a decoded instruction. -/
theorem disassemble_cases (w : Word) :
    (legalIndex (fieldOp0 w) = false ∧ disassemble w = .error ⟨.op0, fieldOp0 w⟩) ∨
    (legalIndex (fieldOp0 w) = true ∧ legalIndex (fieldOp1 w) = false ∧
      disassemble w = .error ⟨.op1, fieldOp1 w⟩) ∨
    (legalIndex (fieldOp0 w) = true ∧ legalIndex (fieldOp1 w) = true ∧
      disassemble w = .ok ⟨opcodeOf (fieldOpcode w), fieldOp0 w, fieldOp1 w⟩) := by
  unfold disassemble
  cases h0 : legalIndex (fieldOp0 w) <;> cases h1 : legalIndex (fieldOp1 w) <;> simp

/-- A word decodes to an instruction of the table exactly when its disassembly is that instruction. -/
theorem decode_eq_some_iff (w : Word) (i : Instr) :
    decode w = some i ↔ ∃ d, disassemble w = .ok d ∧ d.toInstr? = some i := by
  unfold decode
  cases disassemble w <;> simp

/-- A decoded instruction is an instruction of the table exactly when it is that instruction's decoded form. -/
theorem toInstr?_eq_some_iff (d : DecodedInstr) (i : Instr) : d.toInstr? = some i ↔ d = i.toDecoded := by
  rcases d with ⟨c, a, b⟩
  cases c <;> cases i <;> simp [DecodedInstr.toInstr?, Instr.toDecoded]

/-- A decoded instruction is no instruction of the table exactly when its opcode is unrecognised. -/
theorem toInstr?_eq_none_iff (d : DecodedInstr) : d.toInstr? = none ↔ ∃ n, d.opcode = .unknown n := by
  rcases d with ⟨c, a, b⟩
  cases c <;> simp [DecodedInstr.toInstr?]

end Sys2Proof
end

