-- ==== Sys2Proof/Laws/State.lean ====
section
/-! SUPPORT. One lemma per field per update of the state. -/

namespace Sys2Proof.Machine

variable (s : State) (e : OpError) (d : DecodedInstr) (r : Request) (rest : List Request) (i : RegIdx) (v w : Word)

@[simp] theorem writeReg_regs : (writeReg i v s).regs = s.regs.setIfInBounds i.toNat v := rfl
@[simp] theorem writeReg_pending : (writeReg i v s).pending = s.pending := rfl
@[simp] theorem writeReg_stopOnError : (writeReg i v s).stopOnError = s.stopOnError := rfl
@[simp] theorem writeReg_report : (writeReg i v s).report = s.report := rfl
@[simp] theorem writeReg_ports : (writeReg i v s).ports = s.ports := rfl
@[simp] theorem writeReg_drawIx : (writeReg i v s).drawIx = s.drawIx := rfl

@[simp] theorem raise_regs : (raise e s).regs = s.regs := rfl
@[simp] theorem raise_pending : (raise e s).pending = if s.stopOnError then [] else s.pending := rfl
@[simp] theorem raise_stopOnError : (raise e s).stopOnError = s.stopOnError := rfl
@[simp] theorem raise_report : (raise e s).report = some (.failed e) := rfl
@[simp] theorem raise_ports : (raise e s).ports = s.ports := rfl
@[simp] theorem raise_drawIx : (raise e s).drawIx = s.drawIx := rfl

@[simp] theorem finish_regs : (finish d s).regs = s.regs := rfl
@[simp] theorem finish_pending : (finish d s).pending = s.pending := rfl
@[simp] theorem finish_stopOnError : (finish d s).stopOnError = s.stopOnError := rfl
@[simp] theorem finish_report : (finish d s).report = some (.executed d) := rfl
@[simp] theorem finish_ports : (finish d s).ports = s.ports := rfl
@[simp] theorem finish_drawIx : (finish d s).drawIx = s.drawIx := rfl

@[simp] theorem finishDecode_regs : (finishDecode d s).regs = s.regs := rfl
@[simp] theorem finishDecode_pending : (finishDecode d s).pending = s.pending := rfl
@[simp] theorem finishDecode_stopOnError : (finishDecode d s).stopOnError = s.stopOnError := rfl
@[simp] theorem finishDecode_report : (finishDecode d s).report = some (.decoded d) := rfl
@[simp] theorem finishDecode_ports : (finishDecode d s).ports = s.ports := rfl
@[simp] theorem finishDecode_drawIx : (finishDecode d s).drawIx = s.drawIx := rfl

@[simp] theorem accept_regs : (accept r rest s).regs = s.regs := rfl
@[simp] theorem accept_pending : (accept r rest s).pending = rest := rfl
@[simp] theorem accept_stopOnError : (accept r rest s).stopOnError = s.stopOnError := rfl
@[simp] theorem accept_report : (accept r rest s).report = s.report := rfl
@[simp] theorem accept_ports : (accept r rest s).ports = some (datapath r s.regs s.drawIx) := rfl
@[simp] theorem accept_drawIx : (accept r rest s).drawIx = s.drawIx + 1 := rfl

@[simp] theorem awaitRequest_eq : awaitRequest s = s := rfl

@[simp] theorem presentWord_regs : (presentWord w s).regs = s.regs := rfl
@[simp] theorem presentWord_pending : (presentWord w s).pending = ⟨w, true⟩ :: s.pending := rfl
@[simp] theorem presentWord_stopOnError : (presentWord w s).stopOnError = s.stopOnError := rfl
@[simp] theorem presentWord_report : (presentWord w s).report = s.report := rfl
@[simp] theorem presentWord_ports : (presentWord w s).ports = s.ports := rfl
@[simp] theorem presentWord_drawIx : (presentWord w s).drawIx = s.drawIx := rfl

end Sys2Proof.Machine
end

