-- ==== Sys2Proof/Laws/Ops.lean ====
section
/-! SUPPORT. For each shared operation, everything it can do, said once. -/

namespace Sys2Proof.Machine

/-- Reading after writing: the written register reads the value written, every other register reads as before. -/
theorem readReg_writeReg (s : State) (i j : RegIdx) (v : Word) (hi : legalIndex i = true) :
    readReg (writeReg i v s) j = if j = i then some v else readReg s j := by
  have hlt : i.toNat < Config.numRegs := Nat.lt_succ_of_le ((legalIndex_iff i).1 hi)
  unfold readReg
  by_cases h : j = i
  · subst h; simp [hlt]
  · have : i.toNat ≠ j.toNat := fun e => h (BitVec.eq_of_toNat_eq e.symm)
    simp [Vector.getElem?_setIfInBounds_ne, this, h]

/-- An index that names no register has nothing written through it. -/
theorem writeReg_of_illegal (s : State) (i : RegIdx) (v : Word) (hi : legalIndex i = false) :
    writeReg i v s = s := by
  have hle : ¬ i.toNat < Config.numRegs := by
    have : ¬ i.toNat ≤ Config.maxRegisterIndex := fun h => by simp [(legalIndex_iff i).2 h] at hi
    simpa [Config.numRegs, Nat.lt_succ_iff] using this
  unfold writeReg
  rw [Vector.setIfInBounds_eq_of_size_le (by omega)]

/-- A register that reads is named by a legal index. -/
theorem legalIndex_of_readReg {s : State} {i : RegIdx} {v : Word} (h : readReg s i = some v) :
    legalIndex i = true := by
  unfold readReg at h
  obtain ⟨hlt, -⟩ := Vector.getElem?_eq_some_iff.1 h
  exact (legalIndex_iff i).2 (Nat.le_of_lt_succ hlt)

@[simp] theorem readReg_raise (s : State) (e : OpError) (i : RegIdx) :
    readReg (raise e s) i = readReg s i := rfl

@[simp] theorem readReg_finish (s : State) (d : DecodedInstr) (i : RegIdx) :
    readReg (finish d s) i = readReg s i := rfl

@[simp] theorem readReg_finishDecode (s : State) (d : DecodedInstr) (i : RegIdx) :
    readReg (finishDecode d s) i = readReg s i := rfl

@[simp] theorem readReg_accept (s : State) (r : Request) (rest : List Request) (i : RegIdx) :
    readReg (accept r rest s) i = readReg s i := rfl

/-- The checked sum overflows exactly when the exact sum does not fit 32 bits. -/
theorem addOverflows_iff (a b : Word) : addOverflows a b = true ↔ 2 ^ 32 ≤ a.toNat + b.toNat := by
  simp [addOverflows, exactSum]; omega

/-- Without overflow ADD's value is the exact sum. -/
theorem addValue_toNat {a b : Word} (h : addOverflows a b = false) :
    (addValue a b).toNat = a.toNat + b.toNat := by
  have : ¬ 2 ^ 32 ≤ a.toNat + b.toNat := fun hle => by simp [(addOverflows_iff a b).2 hle] at h
  simp only [addValue, exactSum, BitVec.toNat_ofNat]
  omega

/-- If both operands read, the operand form goes on with their values. -/
theorem withOperands_of_some {op0 op1 : RegIdx} {s : State} {a b : Word} (k : Word → Word → State)
    (ha : readReg s op0 = some a) (hb : readReg s op1 = some b) :
    withOperands op0 op1 s k = .next (k a b) := by
  simp [withOperands, ha, hb]

/-- If the operand form goes on, both operands read, and the next state is the continuation's. -/
theorem withOperands_eq_next {op0 op1 : RegIdx} {s t : State} {k : Word → Word → State}
    (h : withOperands op0 op1 s k = .next t) :
    ∃ a b, readReg s op0 = some a ∧ readReg s op1 = some b ∧ t = k a b := by
  unfold withOperands at h
  split at h
  · cases h
  · split at h
    · cases h
    · rename_i a ha _ b hb
      exact ⟨a, b, ha, hb, (Host.Outcome.next.inj h).symm⟩

/-- An opcode that the block does not execute always raises. -/
theorem unsupported_eq_next (n : OpNum) (s : State) :
    unsupported n s = .next (raise (.unsupportedOpcode n) s) := rfl

end Sys2Proof.Machine
end

