-- ==== Sys2Proof/Laws/Datapath.lean ====
section
/-! SUPPORT. The signals of an operation, one lemma per signal the spec drives, and what the read ports carry. -/

namespace Sys2Proof.Machine

variable (r : Request) (x : RegFile) (k : Nat)

@[simp] theorem datapath_insn : (datapath r x k).insn = r.insn := rfl
@[simp] theorem datapath_execReq : (datapath r x k).execReq = r.execReq := rfl
@[simp] theorem datapath_rfRdata0 : (datapath r x k).rfRdata0 = readPort0 r x k := rfl
@[simp] theorem datapath_rfRdata1 : (datapath r x k).rfRdata1 = readPort1 r x k := rfl
@[simp] theorem datapath_decOk : (datapath r x k).decOk = decOk r.insn := rfl
@[simp] theorem datapath_rfWaddr : (datapath r x k).rfWaddr = fieldOp0 r.insn := rfl
@[simp] theorem datapath_rfWe :
    (datapath r x k).rfWe =
      writeEnable r (readPort0 r x k) (readPort1 r x k) := rfl
@[simp] theorem datapath_errCode :
    (datapath r x k).errCode =
      errorCode r (readPort0 r x k) (readPort1 r x k) := rfl

@[simp] theorem datapath_rfRaddr0 : (datapath r x k).rfRaddr0 = fieldOp0 r.insn := rfl
@[simp] theorem datapath_rfRaddr1 : (datapath r x k).rfRaddr1 = fieldOp1 r.insn := rfl

/-- Of a decoded word the decoder's outputs are its fields and the class of its opcode. -/
theorem datapath_dec_of_decOk (h : decOk r.insn = true) :
    (datapath r x k).decOpcode = fieldOpcode r.insn ∧
      (datapath r x k).decOpClass = opClass (fieldOpcode r.insn) ∧
      (datapath r x k).decOp0 = fieldOp0 r.insn ∧ (datapath r x k).decOp1 = fieldOp1 r.insn := by
  simp [datapath, decIndex0, decIndex1, h]

/-- The write data while the write is enabled. -/
theorem datapath_rfWdata (h : (datapath r x k).rfWe = true) :
    (datapath r x k).rfWdata =
      muxData (fieldOpcode r.insn) (readPort0 r x k) (readPort1 r x k) :=
  if_pos h

/-- The value information of a decode error. -/
theorem datapath_errValue_op0 (h : (datapath r x k).errCode = 1#3) :
    (datapath r x k).errValue = fieldOp0 r.insn :=
  if_pos h

theorem datapath_errValue_op1 (h : (datapath r x k).errCode = 2#3) :
    (datapath r x k).errValue = fieldOp1 r.insn :=
  (if_neg (by rw [show errorCode _ _ _ = 2#3 from h]; decide)).trans (if_pos h)

/-- The operands that an overflow reports. -/
theorem datapath_errA (h : (datapath r x k).errCode = 3#3) :
    (datapath r x k).errA = readPort0 r x k :=
  if_pos h

theorem datapath_errB (h : (datapath r x k).errCode = 3#3) :
    (datapath r x k).errB = readPort1 r x k :=
  if_pos h

/-- The opcode number that an unsupported opcode reports. -/
theorem datapath_errOpcode (h : (datapath r x k).errCode = 4#3) :
    (datapath r x k).errOpcode = fieldOpcode r.insn :=
  if_pos h

/-- The read ports carry the registers when the operation uses the data. -/
theorem readPort0_of_readReg {s : State} {v : Word} (hu : readsUsed r = true)
    (h : readReg s (fieldOp0 r.insn) = some v) : readPort0 r s.regs k = v := by
  unfold readReg at h
  simp [readPort0, hu, h]

theorem readPort1_of_readReg {s : State} {v : Word} (hu : readsUsed r = true)
    (h : readReg s (fieldOp1 r.insn) = some v) : readPort1 r s.regs k = v := by
  unfold readReg at h
  simp [readPort1, hu, h]

end Sys2Proof.Machine
end

