-- ==== Sys2Proof/Laws/PerInstr.lean ====
section
/-! SUPPORT. A statement about every instruction as syntax, one lemma per constructor. -/

namespace Sys2Proof.Laws.FieldsOfEncode

/-- The three fields of an instruction's word are its opcode number and its two indices. -/
def Statement (i : Instr) : Prop :=
  fieldOpcode (encode i) = i.toDecoded.opcode.number ∧
    fieldOp0 (encode i) = i.toDecoded.op0 ∧ fieldOp1 (encode i) = i.toDecoded.op1

theorem ldw (op0 op1 : RegIdx) : Statement (.ldw op0 op1) := by
  simp [Statement, encode, encodeDecoded]

theorem stw (op0 op1 : RegIdx) : Statement (.stw op0 op1) := by
  simp [Statement, encode, encodeDecoded]

theorem add (op0 op1 : RegIdx) : Statement (.add op0 op1) := by
  simp [Statement, encode, encodeDecoded]

theorem xor (op0 op1 : RegIdx) : Statement (.xor op0 op1) := by
  simp [Statement, encode, encodeDecoded]

end Sys2Proof.Laws.FieldsOfEncode
end

