-- ==== Sys2Proof/Laws/Step.lean ====
section
/-! SUPPORT. Everything that an instruction, and a step, can do, said once. -/

namespace Sys2Proof.Machine

/-- Everything that `exec` can do when it answers a next state. -/
theorem exec_eq_next {i : Instr} {s t : State} (h : exec i s = .next t) :
    (∃ op0 op1, i = .ldw op0 op1 ∧ t = raise (.unsupportedOpcode 0#6) s) ∨
    (∃ op0 op1, i = .stw op0 op1 ∧ t = raise (.unsupportedOpcode 1#6) s) ∨
    (∃ op0 op1 a b, i = .add op0 op1 ∧ readReg s op0 = some a ∧ readReg s op1 = some b ∧
      addOverflows a b = true ∧ t = raise (.additionOverflow a b) s) ∨
    (∃ op0 op1 a b, i = .add op0 op1 ∧ readReg s op0 = some a ∧ readReg s op1 = some b ∧
      addOverflows a b = false ∧ t = finish ⟨.add, op0, op1⟩ (writeReg op0 (addValue a b) s)) ∨
    (∃ op0 op1 a b, i = .xor op0 op1 ∧ readReg s op0 = some a ∧ readReg s op1 = some b ∧
      t = finish ⟨.xor, op0, op1⟩ (writeReg op0 (xorValue a b) s)) := by
  cases i with
  | ldw op0 op1 => exact .inl ⟨op0, op1, rfl, (Host.Outcome.next.inj h).symm⟩
  | stw op0 op1 => exact .inr (.inl ⟨op0, op1, rfl, (Host.Outcome.next.inj h).symm⟩)
  | add op0 op1 =>
    obtain ⟨a, b, ha, hb, rfl⟩ := withOperands_eq_next h
    cases ho : addOverflows a b
    · exact .inr (.inr (.inr (.inl ⟨op0, op1, a, b, rfl, ha, hb, ho, by simp⟩)))
    · exact .inr (.inr (.inl ⟨op0, op1, a, b, rfl, ha, hb, ho, by simp⟩))
  | xor op0 op1 =>
    obtain ⟨a, b, ha, hb, rfl⟩ := withOperands_eq_next h
    exact .inr (.inr (.inr (.inr ⟨op0, op1, a, b, rfl, ha, hb, rfl⟩)))

/-- Executing a decoded instruction is `exec` of the table's instruction, or the rejection of an unrecognised opcode. -/
theorem applyDecoded_eq (d : DecodedInstr) (s : State) :
    (∃ i : Instr, d = i.toDecoded ∧ applyDecoded d s = exec i s) ∨
    (∃ n, d.opcode = .unknown n ∧ applyDecoded d s = .next (raise (.unsupportedOpcode n) s)) := by
  unfold applyDecoded
  split
  · rename_i i hi
    exact .inl ⟨i, (toInstr?_eq_some_iff d i).1 hi, rfl⟩
  · rename_i hn
    obtain ⟨n, hn⟩ := (toInstr?_eq_none_iff d).1 hn
    exact .inr ⟨n, hn, by rw [hn]; rfl⟩

/-- Everything that one operation can do. -/
theorem operate_cases (r : Request) (s : State) :
    (∃ e, disassemble r.insn = .error e ∧ operate r s = .next (raise (.ofDecode e) s)) ∨
    (∃ d, disassemble r.insn = .ok d ∧ r.execReq = false ∧ operate r s = .next (finishDecode d s)) ∨
    (∃ d, disassemble r.insn = .ok d ∧ r.execReq = true ∧ operate r s = applyDecoded d s) := by
  unfold operate
  cases hd : disassemble r.insn with
  | error e => exact .inl ⟨e, rfl, rfl⟩
  | ok d => cases hr : r.execReq <;> simp

/-- A step is waiting, or one operation on the caller's next request. -/
theorem step_cases (s : State) :
    (s.pending = [] ∧ step s = .next s) ∨
    (∃ r rest, s.pending = r :: rest ∧ step s = operate r (accept r rest s)) := by
  unfold step
  cases s.pending with
  | nil => exact .inl ⟨rfl, rfl⟩
  | cons r rest => exact .inr ⟨r, rest, rfl, rfl⟩

end Sys2Proof.Machine
end

