-- ==== Sys2Proof/Tests/Slice0.lean ====
section
/-! SUPPORT. Tests. The expected results are those of 95_test_vectors.md and of the rules named, worked by hand; none is the model's own answer.
First the smoke tests of WellFormed, then decoding, then one step each, then a witness for every statement that has hypotheses. -/

namespace Sys2Proof.Tests

open Sys2Proof.Machine

/-! ## WellFormed refuses an ill-formed term for each check (30_encoding.md R36, 40_decode.md R53) -/

theorem test_wf_accepts_max : (Instr.add 7#5 7#5).wellFormed = true := by decide
theorem test_wf_refuses_ldw_op0 : (Instr.ldw 8#5 0#5).wellFormed = false := by decide
theorem test_wf_refuses_ldw_op1 : (Instr.ldw 0#5 8#5).wellFormed = false := by decide
theorem test_wf_refuses_stw_op0 : (Instr.stw 16#5 0#5).wellFormed = false := by decide
theorem test_wf_refuses_stw_op1 : (Instr.stw 0#5 16#5).wellFormed = false := by decide
theorem test_wf_refuses_add_op0 : (Instr.add 8#5 1#5).wellFormed = false := by decide
theorem test_wf_refuses_add_op1 : (Instr.add 1#5 31#5).wellFormed = false := by decide
theorem test_wf_refuses_xor_op0 : (Instr.xor 31#5 1#5).wellFormed = false := by decide
theorem test_wf_refuses_xor_op1 : (Instr.xor 1#5 8#5).wellFormed = false := by decide
theorem test_wf_refuses_known_marker : (OpCode.unknown 3#6).wellFormed = false := by decide
theorem test_wf_refuses_decoded_op0 : (DecodedInstr.mk .add 8#5 0#5).wellFormed = false := by decide
theorem test_wf_refuses_decoded_op1 : (DecodedInstr.mk .add 0#5 8#5).wellFormed = false := by decide

/-! ## Decoding: the words bit by bit as 30_encoding.md R31 lays them out: ignored, op1, op0, opcode -/

/-- S4: ignored 0, op1 = 00001, op0 = 00000, opcode = 000000. -/
theorem test_decode_ldw : decode 0b00000000000000000000100000000000#32 = some (.ldw 0#5 1#5) := by decide
/-- S6: ignored 0, op1 = 00000, op0 = 00101, opcode = 000001. -/
theorem test_decode_stw : decode 0b00000000000000000000000101000001#32 = some (.stw 5#5 0#5) := by decide
/-- S1: ignored 0, op1 = 00011, op0 = 00001, opcode = 000010. -/
theorem test_decode_add : decode 0b00000000000000000001100001000010#32 = some (.add 1#5 3#5) := by decide
/-- S5: ignored 0, op1 = 00011, op0 = 00010, opcode = 000011. -/
theorem test_decode_xor : decode 0b00000000000000000001100010000011#32 = some (.xor 2#5 3#5) := by decide
/-- 95_test_vectors.md 2.1: opcode 111111, op0 = 00111. -/
theorem test_decode_unknown : disassemble 0x1FF#32 = .ok ⟨.unknown 63#6, 7#5, 0#5⟩ := by decide
/-- 95_test_vectors.md 2.1: bits 31:16 ignored. -/
theorem test_decode_ignored : disassemble 0xFFFF1842#32 = .ok ⟨.add, 1#5, 3#5⟩ := by decide
/-- S2 and 95_test_vectors.md 2.1: op1 out of range, and bit 15 alone. -/
theorem test_decode_bad_op1 :
    disassemble 0x5002#32 = .error ⟨.op1, 10#5⟩ ∧ disassemble 0x8002#32 = .error ⟨.op1, 16#5⟩ := by decide
/-- 95_test_vectors.md 2.1: both out of range (op0 is reported), and bit 10 alone. -/
theorem test_decode_bad_op0 :
    disassemble 0x4202#32 = .error ⟨.op0, 8#5⟩ ∧ disassemble 0x402#32 = .error ⟨.op0, 16#5⟩ := by decide
/-- 30_encoding.md R39, R41: `ADD R1, R3` is 0x00001842. -/
theorem test_encode_add : encode (.add 1#5 3#5) = 0x1842#32 := by decide
/-- 95_test_vectors.md 2.2: `ADD R5, R4` is 0x00002142. -/
theorem test_encode_add_r5_r4 : encode (.add 5#5 4#5) = 0x2142#32 := by decide
/-- 30_encoding.md R39. -/
theorem test_text_add : (Instr.add 1#5 3#5).text = "ADD R1, R3" := by decide
/-- The host's numbering: 32 bits, bit 0 the least significant. -/
theorem test_decodeTableWord : decodeTableWord 32 0x1883 = some (.xor 2#5 3#5) := by decide

/-! ## One step each, on a small state -/

/-- Eight registers holding `x0`, `x1`, `x2`, `x3`, then zeros. -/
def file (x0 x1 x2 x3 : Word) : RegFile := #v[x0, x1, x2, x3, 0#32, 0#32, 0#32, 0#32]

/-- The caller presents one word for execution, then an `XOR R4, R4`. -/
def start (x : RegFile) (w : Word) : State := State.launch x true [⟨w, true⟩, ⟨0x2103#32, true⟩]

/-- The state after one step, if the step answers one. -/
def after (s : State) : Option State :=
  match step s with
  | .next t => some t
  | .fault _ => none
  | .refused _ => none

/-- The outcome returned by one step. -/
def reportAfter (s : State) : Option Report := (after s).bind State.report

/-- The registers after one step. -/
def regsAfter (s : State) : Option RegFile := (after s).map State.regs

/-- The requests left with the caller after one step. -/
def pendingAfter (s : State) : Option (List Request) := (after s).map State.pending

/-- 95_test_vectors.md 2.2: `ADD R3, R1`, the destination follows op0; the next request stands. -/
theorem test_add_destination :
    regsAfter (start (file 0#32 5#32 0#32 7#32) 0x8C2#32) = some (file 0#32 5#32 0#32 12#32) ∧
    pendingAfter (start (file 0#32 5#32 0#32 7#32) 0x8C2#32) = some [⟨0x2103#32, true⟩] := by decide
/-- 95_test_vectors.md 2.2 and P3: the sum is 2^32 exactly; nothing is written, and the caller stops. -/
theorem test_add_overflow :
    regsAfter (start (file 0x80000000#32 0x80000000#32 1#32 2#32) 0x802#32) =
      some (file 0x80000000#32 0x80000000#32 1#32 2#32) ∧
    reportAfter (start (file 0x80000000#32 0x80000000#32 1#32 2#32) 0x802#32) =
      some (.failed (.additionOverflow 0x80000000#32 0x80000000#32)) ∧
    pendingAfter (start (file 0x80000000#32 0x80000000#32 1#32 2#32) 0x802#32) = some [] := by decide
/-- S5. -/
theorem test_xor_source :
    regsAfter (start (file 1#32 2#32 0x20#32 0x30#32) 0x1883#32) = some (file 1#32 2#32 0x10#32 0x30#32) := by decide
/-- S8: XOR of a register with itself. -/
theorem test_xor_self :
    regsAfter (start (file 1#32 0xDEADBEEF#32 3#32 4#32) 0x843#32) = some (file 1#32 0#32 3#32 4#32) := by decide
/-- 95_test_vectors.md 2.4. -/
theorem test_ldw_rejected :
    reportAfter (start (file 1#32 2#32 3#32 4#32) 0x800#32) = some (.failed (.unsupportedOpcode 0#6)) ∧
    regsAfter (start (file 1#32 2#32 3#32 4#32) 0x800#32) = some (file 1#32 2#32 3#32 4#32) := by decide
/-- 95_test_vectors.md 2.4. -/
theorem test_stw_rejected :
    reportAfter (start (file 1#32 2#32 3#32 4#32) 0x141#32) = some (.failed (.unsupportedOpcode 1#6)) ∧
    regsAfter (start (file 1#32 2#32 3#32 4#32) 0x141#32) = some (file 1#32 2#32 3#32 4#32) := by decide
/-- 95_test_vectors.md 2.4. -/
theorem test_unknown_rejected :
    reportAfter (start (file 1#32 2#32 3#32 4#32) 0x4#32) = some (.failed (.unsupportedOpcode 4#6)) := by decide
/-- S3: the register error comes before any opcode rejection. -/
theorem test_index_before_opcode :
    reportAfter (start (file 1#32 2#32 3#32 4#32) 0x20A#32) =
      some (.failed (.registerIndexOutOfRange .op0 8#5)) := by decide
/-- 40_decode.md R61 with S4: decode only. -/
theorem test_decode_only :
    reportAfter (State.launch (file 1#32 2#32 3#32 4#32) true [⟨0x800#32, false⟩]) =
      some (.decoded ⟨.ldw, 0#5, 1#5⟩) := by decide
/-- 95_test_vectors.md 2.5: the write port for S5, and the error port for S7. -/
theorem test_ports :
    (datapath ⟨0x1883#32, true⟩ (file 0#32 0#32 0x20#32 0x30#32) 0).rfWe = true ∧
    (datapath ⟨0x1883#32, true⟩ (file 0#32 0#32 0x20#32 0x30#32) 0).rfWaddr = 2#5 ∧
    (datapath ⟨0x1883#32, true⟩ (file 0#32 0#32 0x20#32 0x30#32) 0).rfWdata = 0x10#32 ∧
    (datapath ⟨0x802#32, true⟩ (file 0xFFFFFFFF#32 1#32 0#32 0#32) 0).errCode = 3#3 ∧
    (datapath ⟨0x802#32, true⟩ (file 0xFFFFFFFF#32 1#32 0#32 0#32) 0).errB = 1#32 := by decide
/-- 95_test_vectors.md 2.5: the error codes of a decode error, an unsupported opcode, and a decode-only request. -/
theorem test_error_ports :
    (datapath ⟨0x4202#32, true⟩ (file 0#32 0#32 0#32 0#32) 0).errCode = 1#3 ∧
    (datapath ⟨0x4202#32, true⟩ (file 0#32 0#32 0#32 0#32) 0).errValue = 8#5 ∧
    (datapath ⟨0x5002#32, true⟩ (file 0#32 0#32 0#32 0#32) 0).errCode = 2#3 ∧
    (datapath ⟨0x800#32, true⟩ (file 0#32 0#32 0#32 0#32) 0).errCode = 4#3 ∧
    (datapath ⟨0x800#32, false⟩ (file 0#32 0#32 0#32 0#32) 0).errCode = 0#3 := by decide
/-- 40_decode.md R62 and 41_alu.md R76 for S5: the decoder's outputs, the read addresses and the read data. -/
theorem test_decoder_ports :
    (datapath ⟨0x1883#32, true⟩ (file 0#32 0#32 0x20#32 0x30#32) 0).decOpcode = 3#6 ∧
    (datapath ⟨0x1883#32, true⟩ (file 0#32 0#32 0x20#32 0x30#32) 0).decOpClass = 3#3 ∧
    (datapath ⟨0x1883#32, true⟩ (file 0#32 0#32 0x20#32 0x30#32) 0).rfRaddr0 = 2#5 ∧
    (datapath ⟨0x1883#32, true⟩ (file 0#32 0#32 0x20#32 0x30#32) 0).rfRaddr1 = 3#5 ∧
    (datapath ⟨0x1883#32, true⟩ (file 0#32 0#32 0x20#32 0x30#32) 0).rfRdata1 = 0x30#32 := by decide
/-- 41_alu.md R76 for S2 and S3, which fail to decode: the read addresses are still the fields. -/
theorem test_read_addresses_out_of_range :
    (datapath ⟨0x5002#32, true⟩ (file 0#32 0#32 0#32 0#32) 0).rfRaddr1 = 10#5 ∧
    (datapath ⟨0x20A#32, true⟩ (file 0#32 0#32 0#32 0#32) 0).rfRaddr0 = 8#5 := by decide
/-- From reset the presented word is the first that runs: `XOR R2, R3` on zeros. -/
theorem test_withFetchWord :
    reportAfter (State.reset.withFetchWord 32 0x1883) = some (.executed ⟨.xor, 2#5, 3#5⟩) := by decide

/-! ## Witnesses: for every statement with hypotheses, concrete values that meet them all together -/

/-- The state of the examples: x0 = FFFFFFFF, x1 = 1, x2 = 5, x3 = 7. -/
def sample (w : Word) : State := start (file 0xFFFFFFFF#32 1#32 5#32 7#32) w

theorem witness_DecodeOfEncode : (Instr.xor 7#5 0#5).wellFormed = true := by decide
theorem witness_DisassembleOfEncodeDecoded : (DecodedInstr.mk (.unknown 4#6) 7#5 0#5).wellFormed = true := by decide
theorem witness_EncodeOfDisassemble : disassemble 0xABCD39C3#32 = .ok ⟨.xor, 7#5, 7#5⟩ := by decide
theorem witness_OpcodeMap : 4 ≤ (4#6).toNat ∧ 4 ≤ (63#6).toNat := by decide
theorem witness_DecodeSucceedsOnLegalFields :
    (0x39C2#32).toNat / 64 % 32 ≤ Config.maxRegisterIndex ∧
    (0x39C2#32).toNat / 2048 % 32 ≤ Config.maxRegisterIndex := by decide
theorem witness_DecodeFailsOnIllegalField :
    (0x202#32).toNat / 64 % 32 > Config.maxRegisterIndex ∧
    (0x4002#32).toNat / 2048 % 32 > Config.maxRegisterIndex := by decide
theorem witness_DecodedIndicesAreLegalFields : disassemble 0x39C2#32 = .ok ⟨.add, 7#5, 7#5⟩ := by decide
theorem witness_DecodeErrorNamesTheField :
    disassemble 0x202#32 = .error ⟨.op0, 8#5⟩ ∧ disassemble 0x4002#32 = .error ⟨.op1, 8#5⟩ := by decide
theorem witness_IgnoredBitsPlayNoPart : (0xABCD1842#32).toNat % 65536 = (0x1842#32).toNat % 65536 := by decide
theorem witness_LegalIndexNamesARegister :
    legalIndex 7#5 = true ∧ readReg (sample 0#32) 7#5 = some 0#32 ∧
    legalIndex 8#5 = false ∧ readReg (sample 0#32) 8#5 = none := by decide

/-- The word clause at the largest legal indices. -/
theorem witness_AddIsCheckedAddition_word : legalIndex 7#5 = true ∧ legalIndex 0#5 = true := by decide
/-- The largest sum that does not overflow: FFFFFFFF + 0. -/
theorem witness_AddIsCheckedAddition_sum :
    readReg (sample 0#32) 0#5 = some 0xFFFFFFFF#32 ∧ readReg (sample 0#32) 7#5 = some 0#32 ∧
    (0xFFFFFFFF#32).toNat + (0#32).toNat < 2 ^ 32 := by decide
/-- The smallest sum that overflows: FFFFFFFF + 1. -/
theorem witness_AddIsCheckedAddition_overflow :
    readReg (sample 0#32) 0#5 = some 0xFFFFFFFF#32 ∧ readReg (sample 0#32) 1#5 = some 1#32 ∧
    2 ^ 32 ≤ (0xFFFFFFFF#32).toNat + (1#32).toNat := by decide
theorem witness_OverflowIsRaisedByAddAlone :
    exec (.add 0#5 1#5) (sample 0#32) =
      .next (raise (.additionOverflow 0xFFFFFFFF#32 1#32) (sample 0#32)) := rfl

/-- Doubling at 7FFFFFFF and at 80000000. -/
theorem witness_AddCornerCases_same :
    readReg (start (file 0x7FFFFFFF#32 0x80000000#32 0#32 0#32) 0#32) 0#5 = some 0x7FFFFFFF#32 ∧
    (0x7FFFFFFF#32).toNat < 0x80000000 ∧
    readReg (start (file 0x7FFFFFFF#32 0x80000000#32 0#32 0#32) 0#32) 1#5 = some 0x80000000#32 ∧
    0x80000000 ≤ (0x80000000#32).toNat := by decide
/-- Both sides of the boundary, and adding zero. -/
theorem witness_AddCornerCases_boundary :
    readReg (sample 0#32) 0#5 = some 0xFFFFFFFF#32 ∧ readReg (sample 0#32) 4#5 = some 0#32 ∧
    (0xFFFFFFFF#32).toNat + (0#32).toNat = 0xFFFFFFFF ∧
    readReg (sample 0#32) 1#5 = some 1#32 ∧
    (0xFFFFFFFF#32).toNat + (1#32).toNat = 0x100000000 := by decide
/-- A sum of zero: `ADD R4, R5` on zeros. -/
theorem witness_AddCornerCases_zero :
    ∃ t, exec (.add 4#5 5#5) (sample 0#32) = .next t ∧ t.report = some (.executed ⟨.add, 4#5, 5#5⟩) ∧
      readReg t 4#5 = some 0#32 := ⟨_, rfl, rfl, rfl⟩
/-- Different registers, both orders answer a next state, and the first succeeds. -/
theorem witness_AddCornerCases_order :
    (2#5 : RegIdx) ≠ 3#5 ∧ ∃ t u, exec (.add 2#5 3#5) (sample 0#32) = .next t ∧
      exec (.add 3#5 2#5) (sample 0#32) = .next u ∧ t.report = some (.executed ⟨.add, 2#5, 3#5⟩) :=
  ⟨by decide, _, _, rfl, rfl, rfl⟩

theorem witness_XorIsExclusiveOr :
    legalIndex 7#5 = true ∧ legalIndex 2#5 = true ∧
    readReg (sample 0#32) 2#5 = some 5#32 ∧ readReg (sample 0#32) 3#5 = some 7#32 := by decide
/-- Zero in x4, all ones in x0. -/
theorem witness_XorCornerCases_values :
    readReg (sample 0#32) 2#5 = some 5#32 ∧ readReg (sample 0#32) 4#5 = some 0#32 ∧
    readReg (sample 0#32) 0#5 = some 0xFFFFFFFF#32 := by decide
theorem witness_XorCornerCases_order :
    (2#5 : RegIdx) ≠ 3#5 ∧ ∃ t u, exec (.xor 2#5 3#5) (sample 0#32) = .next t ∧
      exec (.xor 3#5 2#5) (sample 0#32) = .next u :=
  ⟨by decide, _, _, rfl, rfl⟩
theorem witness_UndecodedOperandFaults :
    legalIndex 8#5 = false ∧ legalIndex 7#5 = true ∧ legalIndex 31#5 = false := by decide

theorem witness_StepRunsTheDecodedInstruction :
    (sample 0x39C3#32).pending = ⟨0x39C3#32, true⟩ :: [⟨0x2103#32, true⟩] ∧
    decode 0x39C3#32 = some (.xor 7#5 7#5) ∧ (Instr.xor 7#5 7#5).wellFormed = true := by decide
/-- A request, a decode error, and a decoded word (for OperationIsDecodeThenExecute and StepRefinesBlockFunction). -/
theorem witness_OperationIsDecodeThenExecute :
    (sample 0x202#32).pending = ⟨0x202#32, true⟩ :: [⟨0x2103#32, true⟩] ∧
    disassemble 0x202#32 = .error ⟨.op0, 8#5⟩ ∧
    (sample 0x10C2#32).pending = ⟨0x10C2#32, true⟩ :: [⟨0x2103#32, true⟩] ∧
    disassemble 0x10C2#32 = .ok ⟨.add, 3#5, 2#5⟩ := by decide
theorem witness_StepRefinesBlockFunction :
    (sample 0x10C2#32).pending = ⟨0x10C2#32, true⟩ :: [⟨0x2103#32, true⟩] := by decide
theorem witness_ErrorLeavesNoPartialEffect :
    ∃ t, step (sample 0x802#32) = .next t ∧
      t.report = some (.failed (.additionOverflow 0xFFFFFFFF#32 1#32)) := ⟨_, rfl, rfl⟩
/-- A success, and an outcome that is none. -/
theorem witness_AtMostOneRegisterIsWritten :
    (∃ t, step (sample 0x10C2#32) = .next t ∧ t.report = some (.executed ⟨.add, 3#5, 2#5⟩)) ∧
    (∃ t, step (sample 0x800#32) = .next t ∧ ∀ d, t.report ≠ some (.executed d)) :=
  ⟨⟨_, rfl, rfl⟩, ⟨_, rfl, fun _ h => nomatch h⟩⟩
/-- `ADD R2, R2` and `XOR R2, R2`: op1 is op0. -/
theorem witness_SourcesAreReadBeforeTheWrite :
    readReg (sample 0x1082#32) 2#5 = some 5#32 ∧ decode 0x1082#32 = some (.add 2#5 2#5) ∧
    reportAfter (sample 0x1082#32) = some (.executed ⟨.add, 2#5, 2#5⟩) ∧
    decode 0x1083#32 = some (.xor 2#5 2#5) ∧
    reportAfter (sample 0x1083#32) = some (.executed ⟨.xor, 2#5, 2#5⟩) := by decide
theorem witness_DecodeOnlyTouchesNoRegister :
    (State.launch (file 1#32 2#32 3#32 4#32) true [⟨0x800#32, false⟩]).pending = ⟨0x800#32, false⟩ :: [] ∧
    disassemble 0x800#32 = .ok ⟨.ldw, 0#5, 1#5⟩ ∧ disassemble 0x4002#32 = .error ⟨.op1, 8#5⟩ := by decide
/-- The smallest and the largest unrecognised number. -/
theorem witness_UnsupportedExactlyForUnexecutable :
    reportAfter (sample 0x4#32) = some (.failed (.unsupportedOpcode 4#6)) ∧
    reportAfter (sample 0x1FF#32) = some (.failed (.unsupportedOpcode 63#6)) := by decide
theorem witness_DecodeErrorsComeFirst :
    (0x210#32).toNat / 64 % 32 > Config.maxRegisterIndex ∧
    (0x4010#32).toNat / 64 % 32 ≤ Config.maxRegisterIndex ∧
    (0x4010#32).toNat / 2048 % 32 > Config.maxRegisterIndex ∧
    (sample 0x210#32).pending = ⟨0x210#32, true⟩ :: [⟨0x2103#32, true⟩] := by decide
/-- Two states with the same word and registers and a different history. -/
theorem witness_OutcomeIgnoresHistory :
    ∃ t t', step (sample 0x10C2#32) = .next t ∧
      step { sample 0x10C2#32 with
        report := some (.failed (.unsupportedOpcode 0#6)), drawIx := 9, stopOnError := false } = .next t' :=
  ⟨_, _, rfl, rfl⟩
/-- An error, and a success. -/
theorem witness_CallerStopsOnlyByItsPolicy :
    (∃ t, step (sample 0x800#32) = .next t ∧ ∃ e, t.report = some (.failed e)) ∧
    (∃ t, step (sample 0x10C2#32) = .next t ∧ ∀ e, t.report ≠ some (.failed e)) :=
  ⟨⟨_, rfl, _, rfl⟩, ⟨_, rfl, fun _ h => nomatch h⟩⟩
theorem witness_IdleBlockWaits : State.reset.pending = [] := rfl
/-- `rf_we` 1, and `rf_we` 0. -/
theorem witness_WritePortGivesTheRegisterFile :
    (∃ t p, step (sample 0x10C2#32) = .next t ∧ t.ports = some p ∧ p.rfWe = true) ∧
    (∃ t p, step (sample 0x802#32) = .next t ∧ t.ports = some p ∧ p.rfWe = false) :=
  ⟨⟨_, _, rfl, rfl, rfl⟩, ⟨_, _, rfl, rfl, rfl⟩⟩
theorem witness_StepKeepsCoherence :
    Coherent (sample 0x10C2#32) ∧ ∃ t, step (sample 0x10C2#32) = .next t := ⟨trivial, _, rfl⟩
theorem witness_StartIsTheCallersChoice : (7#5 : RegIdx).toNat < 8 := by decide

end Sys2Proof.Tests
end

/-! ## The decoder and decode-only operations (40_decode.md)

The index fields as numbers decide what the decoder answers; the obligations follow from that, and from what one
operation on a decode-only request can do. -/

namespace Sys2Proof

/-- Legality of the op0 field, read off the word as a number (30_encoding.md R32, R36). -/
theorem legalIndex_fieldOp0_iff (w : Word) :
    legalIndex (fieldOp0 w) = true ↔ w.toNat / 64 % 32 ≤ Config.maxRegisterIndex := by
  rw [legalIndex_iff, fieldOp0_toNat]

/-- Legality of the op1 field, read off the word as a number (30_encoding.md R32, R36). -/
theorem legalIndex_fieldOp1_iff (w : Word) :
    legalIndex (fieldOp1 w) = true ↔ w.toNat / 2048 % 32 ≤ Config.maxRegisterIndex := by
  rw [legalIndex_iff, fieldOp1_toNat]

theorem fieldOpcode_eq_ofNat (w : Word) : fieldOpcode w = BitVec.ofNat 6 (w.toNat % 64) := by
  rw [← fieldOpcode_toNat, BitVec.ofNat_toNat, BitVec.setWidth_eq]

/-- When the decoder answers `Ok`, and with what (40_decode.md R58). -/
theorem disassemble_eq_ok_iff (w : Word) (d : DecodedInstr) :
    disassemble w = .ok d ↔ legalIndex (fieldOp0 w) = true ∧ legalIndex (fieldOp1 w) = true ∧
      d = ⟨opcodeOf (fieldOpcode w), fieldOp0 w, fieldOp1 w⟩ := by
  rcases disassemble_cases w with ⟨h0, hw⟩ | ⟨h0, h1, hw⟩ | ⟨h0, h1, hw⟩
  · simp [hw, h0]
  · simp [hw, h1]
  · simp [hw, h0, h1, eq_comm (a := d)]

/-- Settles O5: both legality checks pass, so the answer is the `Ok` of `disassemble_eq_ok_iff`. -/
theorem decodeSucceedsOnLegalFields : Obligations.DecodeSucceedsOnLegalFields := by
  intro w h0 h1
  have hok := (disassemble_eq_ok_iff w _).2
    ⟨(legalIndex_fieldOp0_iff w).2 h0, (legalIndex_fieldOp1_iff w).2 h1, rfl⟩
  exact ⟨_, hok, fieldOp0_toNat w, fieldOp1_toNat w, congrArg opcodeOf (fieldOpcode_eq_ofNat w)⟩

/-- Settles O6: an `Ok` answer would make both fields legal. -/
theorem decodeFailsOnIllegalField : Obligations.DecodeFailsOnIllegalField := by
  intro w hbad
  cases hw : disassemble w with
  | error e => exact ⟨e, rfl⟩
  | ok d =>
    obtain ⟨h0, h1, -⟩ := (disassemble_eq_ok_iff w d).1 hw
    rw [legalIndex_fieldOp0_iff] at h0
    rw [legalIndex_fieldOp1_iff] at h1
    omega

/-- Settles O7: the inversion of an `Ok` answer. -/
theorem decodedIndicesAreLegalFields : Obligations.DecodedIndicesAreLegalFields := by
  intro w d hw
  obtain ⟨h0, h1, rfl⟩ := (disassemble_eq_ok_iff w d).1 hw
  exact ⟨(legalIndex_iff _).1 h0, (legalIndex_iff _).1 h1, fieldOp0_toNat w, fieldOp1_toNat w⟩

/-- Settles O4: the opcode map undoes the numbering of each opcode the decoder may answer. -/
theorem opcodeMap : Obligations.OpcodeMap := by
  refine ⟨opcodeOf_number .ldw rfl, opcodeOf_number .stw rfl, opcodeOf_number .add rfl,
    opcodeOf_number .xor rfl, fun n hn => ?_⟩
  have hwf : (OpCode.unknown n).wellFormed = true := decide_eq_true hn
  exact opcodeOf_number (.unknown n) hwf

end Sys2Proof

namespace Sys2Proof.Machine

/-- With a request presented, a step is one operation on it (41_alu.md R80). -/
theorem step_of_pending {s : State} {r : Request} {rest : List Request} (h : s.pending = r :: rest) :
    step s = operate r (accept r rest s) := by
  simp [step, h]

/-- Settles O27, by what one operation can do (`operate_cases`): it raises the decoder's error or reports the decoded
instruction, and a decode-only request never executes. -/
theorem decodeOnlyTouchesNoRegister : Obligations.DecodeOnlyTouchesNoRegister := by
  intro s w rest hp
  rw [step_of_pending hp]
  rcases operate_cases ⟨w, false⟩ (accept ⟨w, false⟩ rest s) with
    ⟨e, hw, ht⟩ | ⟨d, hw, -, ht⟩ | ⟨d, -, hexec, -⟩
  · refine ⟨_, ht, rfl, fun d hd => ?_, fun e' he => ?_⟩
    · cases hw.symm.trans hd
    · cases hw.symm.trans he
      rfl
  · refine ⟨_, ht, rfl, fun d' hd => ?_, fun e he => ?_⟩
    · cases hw.symm.trans hd
      rfl
    · cases hw.symm.trans he
  · cases hexec

end Sys2Proof.Machine

/-! ## ADD and XOR as instructions (41_alu.md sections 1 and 2)

One equation per way that ADD and XOR can end, one frame lemma for every instruction, and the word that each is encoded by.
The obligations on a single instruction follow from these. -/

namespace Sys2Proof

/-- The three fields side by side are the encoder's word (30_encoding.md R41). -/
theorem ofNat_fields_eq_encodeFields (n : OpNum) (op0 op1 : RegIdx) :
    BitVec.ofNat 32 (n.toNat ||| op0.toNat <<< 6 ||| op1.toNat <<< 11) = encodeFields n op0 op1 := by
  have hlow : op0.toNat <<< 6 + n.toNat < 2 ^ 11 := by
    rw [Nat.shiftLeft_eq]
    omega
  apply BitVec.eq_of_toNat_eq
  rw [Nat.or_comm n.toNat, ← Nat.shiftLeft_add_eq_or_of_lt n.isLt, Nat.or_comm,
    ← Nat.shiftLeft_add_eq_or_of_lt hlow, BitVec.toNat_ofNat, encodeFields_toNat, Nat.shiftLeft_eq, Nat.shiftLeft_eq]
  omega

/-- With legal indices the decoder answers the fields of an encoded word (40_decode.md R58, R59). -/
theorem disassemble_encodeFields (n : OpNum) {op0 op1 : RegIdx} (h0 : legalIndex op0 = true)
    (h1 : legalIndex op1 = true) : disassemble (encodeFields n op0 op1) = .ok ⟨opcodeOf n, op0, op1⟩ := by
  simp [disassemble_eq_ok_iff, h0, h1]

/-- The word of R70 and R72, with the opcode number left open: it decodes to the instruction of that number. -/
theorem decode_ofNat_fields {n : OpNum} {op0 op1 : RegIdx} {i : Instr} (h0 : legalIndex op0 = true)
    (h1 : legalIndex op1 = true) (hi : DecodedInstr.toInstr? ⟨opcodeOf n, op0, op1⟩ = some i) :
    decode (BitVec.ofNat 32 (n.toNat ||| op0.toNat <<< 6 ||| op1.toNat <<< 11)) = some i := by
  rw [ofNat_fields_eq_encodeFields, decode_eq_some_iff]
  exact ⟨_, disassemble_encodeFields n h0 h1, hi⟩

end Sys2Proof

namespace Sys2Proof.Machine

theorem addOverflows_eq_false_iff (a b : Word) : addOverflows a b = false ↔ a.toNat + b.toNat < 2 ^ 32 := by
  rw [← Bool.not_eq_true, addOverflows_iff, Nat.not_le]

/-- A sum that fits is what ADD writes (41_alu.md R70). -/
theorem addValue_eq_of_toNat {a b v : Word} (h : a.toNat + b.toNat = v.toNat) : addValue a b = v := by
  simp [addValue, exactSum, h]

theorem addValue_comm (a b : Word) : addValue a b = addValue b a := by
  simp [addValue, exactSum, Nat.add_comm]

/-- A write leaves every other register alone, also through an index that names no register. -/
theorem otherRegsKept_writeReg (i : RegIdx) (v : Word) (s : State) : OtherRegsKept i s (writeReg i v s) := by
  intro j hj
  cases hi : legalIndex i with
  | true => rw [readReg_writeReg s i j v hi, if_neg hj]
  | false => rw [writeReg_of_illegal s i v hi]

/-- Writing a register that reads, and ending with `Ok`: it reads the value written. -/
theorem readReg_finish_writeReg_same {s : State} {i : RegIdx} {a : Word} (h : readReg s i = some a)
    (d : DecodedInstr) (v : Word) : readReg (finish d (writeReg i v s)) i = some v := by
  rw [readReg_finish, readReg_writeReg s i i v (legalIndex_of_readReg h), if_pos rfl]

section Meanings

variable {p q : RegIdx} {s : State} {a b : Word}

/-- ADD with both operands read: the test and its two ways to end. -/
theorem exec_add_of_readReg (ha : readReg s p = some a) (hb : readReg s q = some b) :
    exec (.add p q) s = .next (if addOverflows a b then raise (.additionOverflow a b) s
      else finish ⟨.add, p, q⟩ (writeReg p (addValue a b) s)) :=
  withOperands_of_some _ ha hb

/-- ADD when the exact sum fits (41_alu.md R70). -/
theorem exec_add_of_fits (ha : readReg s p = some a) (hb : readReg s q = some b)
    (hfit : a.toNat + b.toNat < 2 ^ 32) :
    exec (.add p q) s = .next (finish ⟨.add, p, q⟩ (writeReg p (addValue a b) s)) := by
  rw [exec_add_of_readReg ha hb, (addOverflows_eq_false_iff a b).2 hfit]
  rfl

/-- ADD when the exact sum does not fit (41_alu.md R70). -/
theorem exec_add_of_overflow (ha : readReg s p = some a) (hb : readReg s q = some b)
    (hover : 2 ^ 32 ≤ a.toNat + b.toNat) :
    exec (.add p q) s = .next (raise (.additionOverflow a b) s) := by
  rw [exec_add_of_readReg ha hb, if_pos ((addOverflows_iff a b).2 hover)]

/-- XOR (41_alu.md R72). -/
theorem exec_xor_of_readReg (ha : readReg s p = some a) (hb : readReg s q = some b) :
    exec (.xor p q) s = .next (finish ⟨.xor, p, q⟩ (writeReg p (xorValue a b) s)) :=
  withOperands_of_some _ ha hb

end Meanings

/-- If ADD answers a next state, both operands read and it ended in one of its two ways. -/
theorem exec_add_eq_next {p q : RegIdx} {s t : State} (h : exec (.add p q) s = .next t) :
    ∃ a b, readReg s p = some a ∧ readReg s q = some b ∧
      ((addOverflows a b = false ∧ t = finish ⟨.add, p, q⟩ (writeReg p (addValue a b) s)) ∨
        (addOverflows a b = true ∧ t = raise (.additionOverflow a b) s)) := by
  obtain ⟨a, b, ha, hb, rfl⟩ := withOperands_eq_next h
  refine ⟨a, b, ha, hb, ?_⟩
  cases addOverflows a b with
  | false => exact .inl ⟨rfl, rfl⟩
  | true => exact .inr ⟨rfl, rfl⟩

/-- The frame of every instruction: at most its op0 is written (41_alu.md R79). -/
theorem exec_otherRegsKept {i : Instr} {s t : State} (h : exec i s = .next t) :
    OtherRegsKept i.toDecoded.op0 s t := by
  rcases exec_eq_next h with ⟨_, _, rfl, rfl⟩ | ⟨_, _, rfl, rfl⟩ | ⟨_, _, _, _, rfl, -, -, -, rfl⟩ |
    ⟨op0, _, a, b, rfl, -, -, -, rfl⟩ | ⟨op0, _, a, b, rfl, -, -, rfl⟩
  · exact fun _ _ => rfl
  · exact fun _ _ => rfl
  · exact fun _ _ => rfl
  · exact otherRegsKept_writeReg op0 (addValue a b) s
  · exact otherRegsKept_writeReg op0 (xorValue a b) s

/-- Settles O12: the word by `decode_ofNat_fields`, the two outcomes by the two equations of ADD. -/
theorem addIsCheckedAddition : Obligations.AddIsCheckedAddition := by
  refine ⟨fun op0 op1 h0 h1 => decode_ofNat_fields (n := 2#6) h0 h1 rfl, fun op0 op1 s a b ha hb => ⟨?_, ?_⟩⟩
  · intro hfit
    have hexec := exec_add_of_fits ha hb hfit
    exact ⟨_, addValue a b, hexec, readReg_finish_writeReg_same ha _ _,
      addValue_toNat ((addOverflows_eq_false_iff a b).2 hfit), exec_otherRegsKept hexec, rfl, rfl, rfl, rfl, rfl⟩
  · intro hover
    exact ⟨_, exec_add_of_overflow ha hb hover, rfl, rfl, rfl, rfl, rfl, rfl⟩

/-- Settles O14, clause by clause: which of the two equations of ADD applies, then arithmetic on the exact sum. -/
theorem addCornerCases : Obligations.AddCornerCases := by
  refine ⟨?sameFits, ?sameOverflows, ?boundaryFits, ?boundaryOverflows, ?addZero, ?sumZero, ?op1Kept, ?swapped⟩
  case sameFits =>
    intro i s v hv hlt
    have hfit : v.toNat + v.toNat < 2 ^ 32 := by omega
    refine ⟨_, _, exec_add_of_fits hv hv hfit, readReg_finish_writeReg_same hv _ _, ?_⟩
    rw [addValue_toNat ((addOverflows_eq_false_iff v v).2 hfit), Nat.two_mul]
  case sameOverflows =>
    intro i s v hv hle
    exact ⟨_, exec_add_of_overflow hv hv (by omega), rfl, rfl⟩
  case boundaryFits =>
    intro p q s a b ha hb hsum
    have hvalue : addValue a b = 0xFFFFFFFF#32 := addValue_eq_of_toNat hsum
    exact ⟨_, exec_add_of_fits ha hb (by omega), hvalue ▸ readReg_finish_writeReg_same ha _ _, rfl⟩
  case boundaryOverflows =>
    intro p q s a b ha hb hsum
    exact ⟨_, exec_add_of_overflow ha hb (by omega), rfl, rfl⟩
  case addZero =>
    intro p q s a ha hb
    have hvalue : addValue a 0#32 = a := addValue_eq_of_toNat rfl
    exact ⟨_, exec_add_of_fits ha hb a.isLt, (readReg_finish_writeReg_same ha _ _).trans (congrArg some hvalue), rfl⟩
  case sumZero =>
    intro p q s t hexec hok hzero
    obtain ⟨a, b, ha, hb, ⟨hfit, rfl⟩ | ⟨-, rfl⟩⟩ := exec_add_eq_next hexec
    · have hvalue : addValue a b = 0#32 :=
        Option.some.inj ((readReg_finish_writeReg_same ha _ _).symm.trans hzero)
      have hsum : 0 = a.toNat + b.toNat := by rw [← addValue_toNat hfit, hvalue]; rfl
      obtain rfl : a = 0#32 := BitVec.eq_of_toNat_eq (by simp; omega)
      obtain rfl : b = 0#32 := BitVec.eq_of_toNat_eq (by simp; omega)
      exact ⟨ha, hb⟩
    · cases hok
  case op1Kept =>
    intro p q s t hne hexec
    exact exec_otherRegsKept hexec q hne.symm
  case swapped =>
    intro p q s t u _ ht hu hok
    obtain ⟨a, b, ha, hb, ⟨hfit, rfl⟩ | ⟨-, rfl⟩⟩ := exec_add_eq_next ht
    · rw [addOverflows_eq_false_iff, Nat.add_comm] at hfit
      obtain rfl := Host.Outcome.next.inj ((exec_add_of_fits hb ha hfit).symm.trans hu)
      refine ⟨rfl, ?_, exec_otherRegsKept ht, exec_otherRegsKept hu⟩
      rw [readReg_finish_writeReg_same ha, readReg_finish_writeReg_same hb, addValue_comm]
    · cases hok

/-- Settles O15: the word by `decode_ofNat_fields`, the outcome by the one equation of XOR. -/
theorem xorIsExclusiveOr : Obligations.XorIsExclusiveOr := by
  refine ⟨fun op0 op1 h0 h1 => decode_ofNat_fields (n := 3#6) h0 h1 rfl, fun op0 op1 s a b ha hb => ?_⟩
  have hexec := exec_xor_of_readReg ha hb
  exact ⟨_, xorValue a b, hexec, readReg_finish_writeReg_same ha _ _, fun k _ => BitVec.getLsbD_xor,
    exec_otherRegsKept hexec, rfl, rfl, rfl, rfl, rfl⟩

/-- XOR leaves the exclusive-or of its operands in op0. -/
theorem exec_xor_readReg {p q : RegIdx} {s : State} {a b : Word} (ha : readReg s p = some a)
    (hb : readReg s q = some b) : ∃ t, exec (.xor p q) s = .next t ∧ readReg t p = some (a ^^^ b) :=
  ⟨_, exec_xor_of_readReg ha hb, readReg_finish_writeReg_same ha _ _⟩

/-- Settles O16: the algebra of exclusive-or on the value that `exec_xor_readReg` gives. -/
theorem xorCornerCases : Obligations.XorCornerCases := by
  refine ⟨?same, ?zero, ?allOnes, ?op1Kept, ?swapped⟩
  case same =>
    intro i s v hv
    rw [← BitVec.xor_self (x := v)]
    exact exec_xor_readReg hv hv
  case zero =>
    intro p q s a ha hb
    have hexec := exec_xor_readReg ha hb
    rwa [BitVec.xor_zero] at hexec
  case allOnes =>
    intro p q s a ha hb
    have hexec := exec_xor_readReg ha hb
    rwa [show 0xFFFFFFFF#32 = BitVec.allOnes 32 from rfl, BitVec.xor_allOnes] at hexec
  case op1Kept =>
    intro p q s t hne hexec
    exact exec_otherRegsKept hexec q hne.symm
  case swapped =>
    intro p q s t u ht hu
    refine ⟨?_, exec_otherRegsKept ht⟩
    obtain ⟨a, b, ha, hb, rfl⟩ := withOperands_eq_next ht
    obtain rfl := Host.Outcome.next.inj ((exec_xor_of_readReg hb ha).symm.trans hu)
    rw [readReg_finish_writeReg_same ha, readReg_finish_writeReg_same hb, xorValue, xorValue, BitVec.xor_comm]

end Sys2Proof.Machine

/-! ## One operation (41_alu.md sections 3 and 4)

What executing a decoded instruction can do, what the write port carries meanwhile, and the two obligations on a whole operation. -/

namespace Sys2Proof

theorem opcodeOf_eq_add_iff (n : OpNum) : opcodeOf n = .add ↔ n = 2#6 := by
  refine ⟨fun h => ?_, fun h => h ▸ rfl⟩
  rw [← number_opcodeOf n, h]
  rfl

theorem opcodeOf_eq_xor_iff (n : OpNum) : opcodeOf n = .xor ↔ n = 3#6 := by
  refine ⟨fun h => ?_, fun h => h ▸ rfl⟩
  rw [← number_opcodeOf n, h]
  rfl

end Sys2Proof

namespace Sys2Proof.Machine

/-- Every legal index reads (10_state.md R10). -/
theorem exists_readReg_of_legalIndex (s : State) {i : RegIdx} (hi : legalIndex i = true) :
    ∃ v, readReg s i = some v :=
  ⟨_, Vector.getElem?_eq_getElem (Nat.lt_succ_of_le ((legalIndex_iff i).1 hi))⟩

/-- An instruction with legal indices answers a next state. -/
theorem exec_total {i : Instr} (s : State) (h0 : legalIndex i.toDecoded.op0 = true)
    (h1 : legalIndex i.toDecoded.op1 = true) : ∃ t, exec i s = .next t := by
  obtain ⟨a, ha⟩ := exists_readReg_of_legalIndex s h0
  obtain ⟨b, hb⟩ := exists_readReg_of_legalIndex s h1
  cases i with
  | ldw => exact ⟨_, unsupported_eq_next 0#6 s⟩
  | stw => exact ⟨_, unsupported_eq_next 1#6 s⟩
  | add => exact ⟨_, withOperands_of_some _ ha hb⟩
  | xor => exact ⟨_, withOperands_of_some _ ha hb⟩

/-- The Executor answers a next state for everything the decoder answers (41_alu.md R74). -/
theorem applyDecoded_total {w : Word} {d : DecodedInstr} (hw : disassemble w = .ok d) (s : State) :
    ∃ t, applyDecoded d s = .next t := by
  obtain ⟨h0, h1, hd⟩ := (disassemble_eq_ok_iff w d).1 hw
  rcases applyDecoded_eq d s with ⟨i, rfl, happly⟩ | ⟨_, -, happly⟩
  · rw [happly]
    exact exec_total s (by rw [hd]; exact h0) (by rw [hd]; exact h1)
  · exact ⟨_, happly⟩

/-- What an ADD or an XOR that succeeds leaves in op0 (41_alu.md R70, R72). -/
def resultValue (c : OpCode) (a b : Word) : Word :=
  if c = .add then addValue a b else xorValue a b

/-- ADD succeeds when the exact sum fits, XOR always, and no other opcode does (41_alu.md R79). -/
def Succeeds (c : OpCode) (a b : Word) : Prop :=
  (c = .add ∧ addOverflows a b = false) ∨ c = .xor

theorem Succeeds.add_or_xor {c : OpCode} {a b : Word} (h : Succeeds c a b) : c = .add ∨ c = .xor :=
  h.imp_left And.left

/-- Everything that executing a decoded instruction can do: reject its opcode, or read both operands and overflow or
write op0. -/
theorem applyDecoded_eq_next {d : DecodedInstr} {s t : State} (h : applyDecoded d s = .next t) :
    (d.opcode ≠ .add ∧ d.opcode ≠ .xor ∧ t = raise (.unsupportedOpcode d.opcode.number) s) ∨
    ∃ a b, readReg s d.op0 = some a ∧ readReg s d.op1 = some b ∧
      ((d.opcode = .add ∧ addOverflows a b = true ∧ t = raise (.additionOverflow a b) s) ∨
        (Succeeds d.opcode a b ∧ t = finish d (writeReg d.op0 (resultValue d.opcode a b) s))) := by
  rcases applyDecoded_eq d s with ⟨i, rfl, happly⟩ | ⟨n, hn, happly⟩
  · rcases exec_eq_next (happly.symm.trans h) with ⟨_, _, rfl, ht⟩ | ⟨_, _, rfl, ht⟩ |
      ⟨_, _, a, b, rfl, ha, hb, hover, ht⟩ | ⟨_, _, a, b, rfl, ha, hb, hfit, ht⟩ | ⟨_, _, a, b, rfl, ha, hb, ht⟩
    · exact .inl ⟨nofun, nofun, ht⟩
    · exact .inl ⟨nofun, nofun, ht⟩
    · exact .inr ⟨a, b, ha, hb, .inl ⟨rfl, hover, ht⟩⟩
    · exact .inr ⟨a, b, ha, hb, .inr ⟨.inl ⟨rfl, hfit⟩, ht⟩⟩
    · exact .inr ⟨a, b, ha, hb, .inr ⟨.inr rfl, ht⟩⟩
  · obtain rfl := Host.Outcome.next.inj (happly.symm.trans h)
    rw [hn]
    exact .inl ⟨nofun, nofun, rfl⟩

/-- Executing a decoded instruction ends with an error and the registers as they were, or with `Ok` and at most op0 changed
(41_alu.md R79). -/
theorem applyDecoded_failed_or_executed {d : DecodedInstr} {s t : State} (h : applyDecoded d s = .next t) :
    (∃ e, t.report = some (.failed e) ∧ t.regs = s.regs) ∨
      (t.report = some (.executed d) ∧ OtherRegsKept d.op0 s t) := by
  rcases applyDecoded_eq_next h with
    ⟨-, -, rfl⟩ | ⟨a, b, -, -, ⟨-, -, rfl⟩ | ⟨-, rfl⟩⟩
  · exact .inl ⟨_, rfl, rfl⟩
  · exact .inl ⟨_, rfl, rfl⟩
  · exact .inr ⟨rfl, otherRegsKept_writeReg d.op0 (resultValue d.opcode a b) s⟩

/-- Settles O22: a decode error raises at once; a decoded instruction runs in the accepted state, where
`applyDecoded_failed_or_executed` says how it can end. -/
theorem operationIsDecodeThenExecute : Obligations.OperationIsDecodeThenExecute := by
  intro s w rest hp
  rw [step_of_pending hp]
  rcases operate_cases ⟨w, true⟩ (accept ⟨w, true⟩ rest s) with
    ⟨e, hw, hop⟩ | ⟨_, -, hexec, -⟩ | ⟨d, hw, -, hop⟩
  · refine ⟨_, hop, fun e' he => ?_, fun d hd => ?_⟩
    · cases hw.symm.trans he
      exact ⟨rfl, rfl⟩
    · cases hw.symm.trans hd
  · cases hexec
  · obtain ⟨t, ht⟩ := applyDecoded_total hw (accept ⟨w, true⟩ rest s)
    refine ⟨t, hop.trans ht, fun e he => ?_, fun d' hd => ?_⟩
    · cases hw.symm.trans he
    · cases hw.symm.trans hd
      have hend := applyDecoded_failed_or_executed ht
      exact ⟨ht, hend⟩

/-! ### The ALU outputs and the write port -/

/-- The 33-bit sum does not wrap. -/
theorem sum33_toNat (a b : Word) : (sum33 a b).toNat = a.toNat + b.toNat := by
  simp [sum33]
  omega

/-- The carry of the 33-bit sum is the overflow of the checked addition (41_alu.md R77). -/
theorem addOvf_eq_addOverflows (a b : Word) : addOvf a b = addOverflows a b := by
  rw [Bool.eq_iff_iff, addOverflows_iff, addOvf, BitVec.getLsbD, sum33_toNat, Nat.testBit_eq_decide_div_mod_eq,
    decide_eq_true_eq]
  omega

/-- The low half of the 33-bit sum is what ADD writes (41_alu.md R77). -/
theorem addRes_eq_addValue (a b : Word) : addRes a b = addValue a b := by
  apply BitVec.eq_of_toNat_eq
  simp [addRes, addValue, exactSum, sum33_toNat]

theorem decOk_of_error {w : Word} {e : DecodeError} (hw : disassemble w = .error e) : decOk w = false := by
  rcases disassemble_cases w with ⟨h0, -⟩ | ⟨-, h1, -⟩ | ⟨-, -, hok⟩
  · simp [decOk, h0]
  · simp [decOk, h1]
  · cases hw.symm.trans hok

theorem writeEnable_of_decodeOnly {r : Request} (hx : r.execReq = false) (a b : Word) :
    writeEnable r a b = false := by
  simp [writeEnable, hx]

theorem writeEnable_of_error {r : Request} {e : DecodeError} (hw : disassemble r.insn = .error e) (a b : Word) :
    writeEnable r a b = false := by
  simp [writeEnable, decOk_of_error hw]

section Executing

variable {r : Request} {d : DecodedInstr}

/-- `rf_we` while a decoded instruction is executed (41_alu.md R78). -/
theorem writeEnable_iff_of_ok (hw : disassemble r.insn = .ok d) (hx : r.execReq = true) (a b : Word) :
    writeEnable r a b = true ↔ Succeeds d.opcode a b := by
  obtain ⟨h0, h1, rfl⟩ := (disassemble_eq_ok_iff r.insn d).1 hw
  simp [writeEnable, decOk, h0, h1, hx, addOvf_eq_addOverflows, Succeeds, opcodeOf_eq_add_iff, opcodeOf_eq_xor_iff]

/-- An executed ADD or XOR uses the read data (41_alu.md R76). -/
theorem readsUsed_of_ok (hw : disassemble r.insn = .ok d) (hx : r.execReq = true)
    (hop : d.opcode = .add ∨ d.opcode = .xor) : readsUsed r = true := by
  obtain ⟨h0, h1, rfl⟩ := (disassemble_eq_ok_iff r.insn d).1 hw
  simpa [readsUsed, decOk, h0, h1, hx, opcodeOf_eq_add_iff, opcodeOf_eq_xor_iff] using hop

/-- The read ports of an executed ADD or XOR carry its two operands (41_alu.md R76). -/
theorem readPorts_of_ok {s : State} {a b : Word} (k : Nat) (hw : disassemble r.insn = .ok d) (hx : r.execReq = true)
    (hop : d.opcode = .add ∨ d.opcode = .xor) (ha : readReg s d.op0 = some a) (hb : readReg s d.op1 = some b) :
    readPort0 r s.regs k = a ∧ readPort1 r s.regs k = b := by
  have hused := readsUsed_of_ok hw hx hop
  obtain ⟨-, -, rfl⟩ := (disassemble_eq_ok_iff r.insn d).1 hw
  exact ⟨readPort0_of_readReg r k hused ha, readPort1_of_readReg r k hused hb⟩

/-- The multiplexer passes the value that the opcode writes (41_alu.md R78). -/
theorem muxData_of_ok {w : Word} (hw : disassemble w = .ok d) (a b : Word) :
    muxData (fieldOpcode w) a b = resultValue d.opcode a b := by
  obtain ⟨-, -, rfl⟩ := (disassemble_eq_ok_iff w d).1 hw
  simp only [muxData, resultValue, addRes_eq_addValue, opcodeOf_eq_add_iff]
  rfl

/-- `rf_we` of an executed ADD or XOR, from its two operands. -/
theorem datapath_rfWe_iff_of_ok {s : State} {a b : Word} (k : Nat) (hw : disassemble r.insn = .ok d)
    (hx : r.execReq = true) (hop : d.opcode = .add ∨ d.opcode = .xor) (ha : readReg s d.op0 = some a)
    (hb : readReg s d.op1 = some b) : (datapath r s.regs k).rfWe = true ↔ Succeeds d.opcode a b := by
  obtain ⟨h0, h1⟩ := readPorts_of_ok k hw hx hop ha hb
  rw [datapath_rfWe, h0, h1, writeEnable_iff_of_ok hw hx]

/-- `rf_wdata` of an ADD or XOR that succeeds, from its two operands. -/
theorem datapath_rfWdata_of_ok {s : State} {a b : Word} (k : Nat) (hw : disassemble r.insn = .ok d)
    (hx : r.execReq = true) (hsucc : Succeeds d.opcode a b) (ha : readReg s d.op0 = some a)
    (hb : readReg s d.op1 = some b) : (datapath r s.regs k).rfWdata = resultValue d.opcode a b := by
  obtain ⟨h0, h1⟩ := readPorts_of_ok k hw hx hsucc.add_or_xor ha hb
  rw [datapath_rfWdata r s.regs k ((datapath_rfWe_iff_of_ok k hw hx hsucc.add_or_xor ha hb).2 hsucc), h0, h1,
    muxData_of_ok hw]

end Executing

/-- An operation writes op0 of an executed ADD or XOR through the write port, or it executes nothing, writes nothing and holds the
write port off (41_alu.md R79). -/
theorem step_writes_op0_or_nothing {s t : State} {r : Request} {rest : List Request}
    (hp : s.pending = r :: rest) (ht : step s = .next t) :
    (∃ d p, t.report = some (.executed d) ∧ (d.opcode = .add ∨ d.opcode = .xor) ∧ OtherRegsKept d.op0 s t ∧
      t.ports = some p ∧ p.rfWe = true ∧ p.rfWaddr = d.op0 ∧ readReg t d.op0 = some p.rfWdata) ∨
    ((∀ d, t.report ≠ some (.executed d)) ∧ t.regs = s.regs ∧ ∃ p, t.ports = some p ∧ p.rfWe = false) := by
  rw [step_of_pending hp] at ht
  rcases operate_cases r (accept r rest s) with ⟨e, hw, hop⟩ | ⟨d, -, hx, hop⟩ | ⟨d, hw, hx, hop⟩
  · obtain rfl := Host.Outcome.next.inj (hop.symm.trans ht)
    exact .inr ⟨nofun, rfl, _, rfl, writeEnable_of_error hw _ _⟩
  · obtain rfl := Host.Outcome.next.inj (hop.symm.trans ht)
    exact .inr ⟨nofun, rfl, _, rfl, writeEnable_of_decodeOnly hx _ _⟩
  · have haddr : fieldOp0 r.insn = d.op0 := by
      obtain ⟨-, -, rfl⟩ := (disassemble_eq_ok_iff r.insn d).1 hw
      rfl
    rcases applyDecoded_eq_next (hop.symm.trans ht) with ⟨hadd, hxor, rfl⟩ |
      ⟨a, b, ha, hb, ⟨hadd, hover, rfl⟩ | ⟨hsucc, rfl⟩⟩
    · refine .inr ⟨nofun, rfl, _, rfl, Bool.eq_false_iff.2 fun hwe => ?_⟩
      have hsucc := (writeEnable_iff_of_ok hw hx _ _).1 hwe
      exact hsucc.add_or_xor.elim hadd hxor
    · refine .inr ⟨nofun, rfl, _, rfl, Bool.eq_false_iff.2 fun hwe => ?_⟩
      have hsucc := (datapath_rfWe_iff_of_ok s.drawIx hw hx (.inl hadd) ha hb).1 hwe
      simp [Succeeds, hadd, hover] at hsucc
    · have hwe := (datapath_rfWe_iff_of_ok s.drawIx hw hx hsucc.add_or_xor ha hb).2 hsucc
      have hdata := datapath_rfWdata_of_ok s.drawIx hw hx hsucc ha hb
      exact .inl ⟨d, _, rfl, hsucc.add_or_xor, otherRegsKept_writeReg d.op0 (resultValue d.opcode a b) _, rfl, hwe,
        haddr, (readReg_finish_writeReg_same ha d _).trans (congrArg some hdata.symm)⟩

/-- Settles O25: the two ways of `step_writes_op0_or_nothing` are told apart by the outcome. -/
theorem atMostOneRegisterIsWritten : Obligations.AtMostOneRegisterIsWritten := by
  intro s t r rest hp ht
  rcases step_writes_op0_or_nothing hp ht with
    ⟨d, p, hreport, hop, hkept, hports, hwe, haddr, hdata⟩ | ⟨hnone, hregs, hport⟩
  · refine ⟨fun d' hd => ?_, fun hnone => absurd hreport (hnone d)⟩
    cases hreport.symm.trans hd
    exact ⟨hop, hkept, p, hports, hwe, haddr, hdata⟩
  · exact ⟨fun d hd => absurd hd (hnone d), fun _ => ⟨hregs, hport⟩⟩

end Sys2Proof.Machine

/-! ## Errors of an operation (60_exceptions.md)

An operation that ends with an error `e` ends in `raise e` of the state in which it ran: said once for the Executor, one operation
and a step. What an error leaves unchanged is then what `raise` and `accept` leave unchanged. -/

namespace Sys2Proof.Machine

/-- An overflow comes from an ADD that read both operands, and their exact sum does not fit (60_exceptions.md R102). -/
theorem exec_eq_next_of_additionOverflow {i : Instr} {s t : State} {a b : Word} (h : exec i s = .next t)
    (he : t.report = some (.failed (.additionOverflow a b))) :
    ∃ op0 op1, i = .add op0 op1 ∧ readReg s op0 = some a ∧ readReg s op1 = some b ∧
      2 ^ 32 ≤ a.toNat + b.toNat ∧ t = raise (.additionOverflow a b) s := by
  rcases exec_eq_next h with ⟨_, _, -, rfl⟩ | ⟨_, _, -, rfl⟩ | ⟨op0, op1, a', b', hi, ha, hb, hover, rfl⟩ |
    ⟨_, _, _, _, -, -, -, -, rfl⟩ | ⟨_, _, _, _, -, -, -, rfl⟩
  case inr.inr.inl =>
    cases he
    exact ⟨op0, op1, hi, ha, hb, (addOverflows_iff a b).1 hover, rfl⟩
  all_goals cases he

/-- Settles O13: an overflow is traced back to its ADD by `exec_eq_next_of_additionOverflow`, and ADD's equation on overflow
gives the converse. -/
theorem overflowIsRaisedByAddAlone : Obligations.OverflowIsRaisedByAddAlone := by
  intro i s t a b h
  refine ⟨⟨fun he => ?_, ?_⟩, fun he => ?_⟩
  · obtain ⟨op0, op1, hi, ha, hb, hover, -⟩ := exec_eq_next_of_additionOverflow h he
    exact ⟨op0, op1, hi, ha, hb, hover⟩
  · rintro ⟨op0, op1, rfl, ha, hb, hover⟩
    obtain rfl := Host.Outcome.next.inj ((exec_add_of_overflow ha hb hover).symm.trans h)
    rfl
  · obtain ⟨_, _, -, -, -, -, rfl⟩ := exec_eq_next_of_additionOverflow h he
    rfl

/-- The Executor fails only by raising the error it reports. -/
theorem applyDecoded_eq_raise_of_failed {d : DecodedInstr} {s t : State} {e : OpError}
    (h : applyDecoded d s = .next t) (he : t.report = some (.failed e)) : t = raise e s := by
  rcases applyDecoded_eq_next h with ⟨-, -, rfl⟩ | ⟨a, b, -, -, ⟨-, -, rfl⟩ | ⟨-, rfl⟩⟩
  · cases he
    rfl
  · cases he
    rfl
  · cases he

/-- An operation, of any request, fails only by raising the error it reports (60_exceptions.md R104). -/
theorem operate_eq_raise_of_failed {r : Request} {s t : State} {e : OpError}
    (h : operate r s = .next t) (he : t.report = some (.failed e)) : t = raise e s := by
  rcases operate_cases r s with ⟨e', -, hop⟩ | ⟨d, -, -, hop⟩ | ⟨d, -, -, hop⟩
  · obtain rfl := Host.Outcome.next.inj (hop.symm.trans h)
    cases he
    rfl
  · obtain rfl := Host.Outcome.next.inj (hop.symm.trans h)
    cases he
  · exact applyDecoded_eq_raise_of_failed (hop.symm.trans h) he

/-- A step on a request fails only by raising, in the accepted state, the error it reports. -/
theorem step_eq_raise_of_failed {s t : State} {r : Request} {rest : List Request} {e : OpError}
    (hp : s.pending = r :: rest) (ht : step s = .next t) (he : t.report = some (.failed e)) :
    t = raise e (accept r rest s) :=
  operate_eq_raise_of_failed ((step_of_pending hp).symm.trans ht) he

/-- Settles O24: the next state is `raise` of the accepted state (`step_eq_raise_of_failed`), and neither of the two touches the
registers or the caller's policy. -/
theorem errorLeavesNoPartialEffect : Obligations.ErrorLeavesNoPartialEffect := by
  intro s t r rest e hp ht he
  rw [step_eq_raise_of_failed hp ht he, raise_regs, accept_regs, raise_stopOnError, accept_stopOnError]
  exact ⟨rfl, rfl⟩

end Sys2Proof.Machine

/-! ## Sources before the write (70_reset_and_hazards.md section 2)

A step on a word of the table is `exec` of its instruction in the accepted state. The signals are settled in that state, from the
register file before the operation, and no instruction changes them afterwards; the operands of `exec` are read from the same file. -/

namespace Sys2Proof

/-- A word that holds an instruction of the table disassembles to that instruction's decoded form. -/
theorem disassemble_of_decode {w : Word} {i : Instr} (h : decode w = some i) : disassemble w = .ok i.toDecoded := by
  obtain ⟨d, hw, hd⟩ := (decode_eq_some_iff w i).1 h
  rwa [(toInstr?_eq_some_iff d i).1 hd] at hw

end Sys2Proof

namespace Sys2Proof.Machine

/-- The Executor runs the table's instruction on its decoded form (41_alu.md R74). -/
@[simp] theorem applyDecoded_toDecoded (i : Instr) (s : State) : applyDecoded i.toDecoded s = exec i s := by
  rw [applyDecoded, (toInstr?_eq_some_iff _ i).2 rfl]

/-- One operation that executes a word of the table is that word's instruction (41_alu.md R80). -/
theorem operate_of_decode {r : Request} {i : Instr} (hdec : decode r.insn = some i) (hx : r.execReq = true)
    (s : State) : operate r s = exec i s := by
  simp [operate, disassemble_of_decode hdec, hx]

/-- No instruction changes the signals, which settled when the request was accepted. -/
theorem exec_ports {i : Instr} {s t : State} (h : exec i s = .next t) : t.ports = s.ports := by
  rcases exec_eq_next h with ⟨_, _, -, rfl⟩ | ⟨_, _, -, rfl⟩ | ⟨_, _, _, _, -, -, -, -, rfl⟩ |
    ⟨_, _, _, _, -, -, -, -, rfl⟩ | ⟨_, _, _, _, -, -, -, rfl⟩
  all_goals rfl

section Executing

variable {s t : State} {w : Word} {rest : List Request}

/-- A step that executes a word of the table runs its instruction in the accepted state. -/
theorem exec_of_step {i : Instr} (hp : s.pending = ⟨w, true⟩ :: rest) (hdec : decode w = some i)
    (ht : step s = .next t) : exec i (accept ⟨w, true⟩ rest s) = .next t := by
  rwa [step_of_pending hp, operate_of_decode (r := ⟨w, true⟩) hdec rfl] at ht

/-- After an executed ADD or XOR the read ports show its operands as they stood before it (41_alu.md R76,
70_reset_and_hazards.md R124; the ports are those of 92_eei_decisions.md D8). -/
theorem readPorts_of_step {i : Instr} {a b : Word} (hp : s.pending = ⟨w, true⟩ :: rest) (hdec : decode w = some i)
    (hop : i.toDecoded.opcode = .add ∨ i.toDecoded.opcode = .xor) (ha : readReg s i.toDecoded.op0 = some a)
    (hb : readReg s i.toDecoded.op1 = some b) (ht : step s = .next t) :
    ∃ p, t.ports = some p ∧ p.rfRdata0 = a ∧ p.rfRdata1 = b := by
  have hports := exec_ports (exec_of_step hp hdec ht)
  rw [accept_ports] at hports
  have hread := readPorts_of_ok (r := ⟨w, true⟩) s.drawIx (disassemble_of_decode hdec) rfl hop ha hb
  exact ⟨_, hports, hread⟩

end Executing

/-- What ADD leaves in op0 when it reports success (41_alu.md R70). -/
theorem readReg_of_exec_add_executed {p q : RegIdx} {s t : State} {a b : Word} {d : DecodedInstr}
    (ha : readReg s p = some a) (hb : readReg s q = some b) (h : exec (.add p q) s = .next t)
    (hreport : t.report = some (.executed d)) :
    ∃ v, readReg t p = some v ∧ v.toNat = a.toNat + b.toNat := by
  rw [exec_add_of_readReg ha hb] at h
  obtain rfl := Host.Outcome.next.inj h
  cases hover : addOverflows a b with
  | false => exact ⟨addValue a b, readReg_finish_writeReg_same ha _ _, addValue_toNat hover⟩
  | true => simp [hover] at hreport

/-- Settles O26: the ports by `readPorts_of_step`; the value in op0 by the meaning of ADD or XOR in the accepted state, whose
registers are those of `s`. No case split on `op0 = op1` is needed, since both operands are read before the one write. -/
theorem sourcesAreReadBeforeTheWrite : Obligations.SourcesAreReadBeforeTheWrite := by
  intro s t w rest op0 op1 a b hp ha hb ht
  have ha' : readReg (accept ⟨w, true⟩ rest s) op0 = some a := ha
  have hb' : readReg (accept ⟨w, true⟩ rest s) op1 = some b := hb
  refine ⟨fun hdec => ⟨?addPorts, fun hreport => ?addValue⟩, fun hdec => ⟨?xorPorts, ?xorValue⟩⟩
  case addPorts => exact readPorts_of_step hp hdec (.inl rfl) ha hb ht
  case addValue => exact readReg_of_exec_add_executed ha' hb' (exec_of_step hp hdec ht) hreport
  case xorPorts => exact readPorts_of_step hp hdec (.inr rfl) ha hb ht
  case xorValue =>
    obtain ⟨u, hexec, hread⟩ := exec_xor_readReg ha' hb'
    obtain rfl := Host.Outcome.next.inj (hexec.symm.trans (exec_of_step hp hdec ht))
    exact hread

end Sys2Proof.Machine

/-! ## Encoding and decoding (30_encoding.md section 4, 40_decode.md section 2)

The encoder and the decoder undo each other on what either of them answers, and the decoder's error is fixed by the two index fields. -/

namespace Sys2Proof

/-- An instruction of the table is well formed exactly when its decoded form is (40_decode.md R55). -/
theorem toDecoded_wellFormed (i : Instr) : i.toDecoded.wellFormed = i.wellFormed := by
  cases i <;> rfl

theorem decodedInstr_wellFormed_iff (d : DecodedInstr) :
    d.wellFormed = true ↔ d.opcode.wellFormed = true ∧ legalIndex d.op0 = true ∧ legalIndex d.op1 = true := by
  simp [DecodedInstr.wellFormed, and_assoc]

/-- Settles O2: the decoder answers the encoded fields, and the opcode map undoes the numbering of a well-formed opcode. -/
theorem disassembleOfEncodeDecoded : Obligations.DisassembleOfEncodeDecoded := by
  intro d hd
  obtain ⟨hc, h0, h1⟩ := (decodedInstr_wellFormed_iff d).1 hd
  rw [encodeDecoded, disassemble_encodeFields _ h0 h1, opcodeOf_number _ hc]

/-- Settles O1: the round trip of the decoded form, which is the instruction's own. -/
theorem decodeOfEncode : Obligations.DecodeOfEncode := by
  intro i hi
  have hround : disassemble (encode i) = .ok i.toDecoded :=
    disassembleOfEncodeDecoded i.toDecoded ((toDecoded_wellFormed i).trans hi)
  exact (decode_eq_some_iff _ i).2 ⟨i.toDecoded, hround, (toInstr?_eq_some_iff _ i).2 rfl⟩

/-- Settles O3: the three fields of the word, put back at their places, are its bits 15:0. -/
theorem encodeOfDisassemble : Obligations.EncodeOfDisassemble := by
  intro w d hw
  obtain ⟨h0, h1, rfl⟩ := (disassemble_eq_ok_iff w d).1 hw
  refine ⟨(decodedInstr_wellFormed_iff _).2 ⟨opcodeOf_wellFormed _, h0, h1⟩, ?_⟩
  rw [encodeDecoded, encodeFields_toNat, number_opcodeOf, fieldOpcode_toNat, fieldOp0_toNat, fieldOp1_toNat]
  omega

/-- When the decoder answers an error, and with what: op0 is checked first (40_decode.md R58, 92_eei_decisions.md D6). -/
theorem disassemble_eq_error_iff (w : Word) (e : DecodeError) :
    disassemble w = .error e ↔
      (legalIndex (fieldOp0 w) = false ∧ e = ⟨.op0, fieldOp0 w⟩) ∨
      (legalIndex (fieldOp0 w) = true ∧ legalIndex (fieldOp1 w) = false ∧ e = ⟨.op1, fieldOp1 w⟩) := by
  rcases disassemble_cases w with ⟨h0, hw⟩ | ⟨h0, h1, hw⟩ | ⟨h0, h1, hw⟩
  · simp [hw, h0, eq_comm (a := e)]
  · simp [hw, h0, h1, eq_comm (a := e)]
  · simp [hw, h0, h1]

theorem legalIndex_fieldOp0_eq_false_iff (w : Word) :
    legalIndex (fieldOp0 w) = false ↔ w.toNat / 64 % 32 > Config.maxRegisterIndex := by
  rw [← Bool.not_eq_true, legalIndex_fieldOp0_iff, Nat.not_le]

theorem legalIndex_fieldOp1_eq_false_iff (w : Word) :
    legalIndex (fieldOp1 w) = false ↔ w.toNat / 2048 % 32 > Config.maxRegisterIndex := by
  rw [← Bool.not_eq_true, legalIndex_fieldOp1_iff, Nat.not_le]

/-- A decode error is its field and its value as a number. -/
theorem decodeError_eq_iff (e : DecodeError) (f : OperandField) (v : RegIdx) :
    e = ⟨f, v⟩ ↔ e.field = f ∧ e.value.toNat = v.toNat := by
  rw [BitVec.toNat_inj]
  cases e
  simp

/-- Settles O8: `disassemble_eq_error_iff` with the fields read as numbers. -/
theorem decodeErrorNamesTheField : Obligations.DecodeErrorNamesTheField := by
  intro w e
  rw [disassemble_eq_error_iff, decodeError_eq_iff, decodeError_eq_iff, legalIndex_fieldOp0_eq_false_iff,
    legalIndex_fieldOp1_eq_false_iff, legalIndex_fieldOp0_iff, fieldOp0_toNat, fieldOp1_toNat]

/-- Settles O10: six closed evaluations of the decoder. -/
theorem sourceExamplesDecode : Obligations.SourceExamplesDecode := by
  refine ⟨?_, ?_, ?_, ?_, ?_, ?_⟩ <;> decide

/-- The fields lie in bits 15:0, so words that agree there decode alike (30_encoding.md R33). -/
theorem disassemble_congr {w v : Word} (h : w.toNat % 65536 = v.toNat % 65536) : disassemble w = disassemble v := by
  have hop : fieldOpcode w = fieldOpcode v := BitVec.eq_of_toNat_eq (by simp only [fieldOpcode_toNat]; omega)
  have h0 : fieldOp0 w = fieldOp0 v := BitVec.eq_of_toNat_eq (by simp only [fieldOp0_toNat]; omega)
  have h1 : fieldOp1 w = fieldOp1 v := BitVec.eq_of_toNat_eq (by simp only [fieldOp1_toNat]; omega)
  simp only [disassemble, hop, h0, h1]

end Sys2Proof

/-! ## The register file, the start, and instructions handed to `exec` directly -/

namespace Sys2Proof.Machine

/-- Settles O11: a legal index reads, and what reads is legal. -/
theorem legalIndexNamesARegister : Obligations.LegalIndexNamesARegister := fun s _ =>
  ⟨exists_readReg_of_legalIndex s, fun ⟨_, hv⟩ => legalIndex_of_readReg hv⟩

/-- An illegal index names no register (10_state.md R10). -/
theorem readReg_eq_none_of_illegal (s : State) {i : RegIdx} (hi : legalIndex i = false) : readReg s i = none := by
  rw [Option.eq_none_iff_forall_ne_some]
  intro v hv
  simp [legalIndex_of_readReg hv] at hi

/-- The operand form stops at an illegal op0, whatever op1 is. -/
theorem withOperands_of_illegal_op0 {op0 : RegIdx} (op1 : RegIdx) (s : State) (k : Word → Word → State)
    (h0 : legalIndex op0 = false) : withOperands op0 op1 s k = .fault (.undecodedOperand .op0 op0) := by
  simp [withOperands, readReg_eq_none_of_illegal s h0]

/-- The operand form stops at an illegal op1 once op0 has been read. -/
theorem withOperands_of_illegal_op1 {op0 op1 : RegIdx} (s : State) (k : Word → Word → State)
    (h0 : legalIndex op0 = true) (h1 : legalIndex op1 = false) :
    withOperands op0 op1 s k = .fault (.undecodedOperand .op1 op1) := by
  obtain ⟨a, ha⟩ := exists_readReg_of_legalIndex s h0
  simp [withOperands, ha, readReg_eq_none_of_illegal s h1]

/-- Settles O19: ADD and XOR are the operand form, which stops at the first illegal index. -/
theorem undecodedOperandFaults : Obligations.UndecodedOperandFaults := by
  intro op0 op1 s
  refine ⟨fun h0 => ⟨?_, ?_⟩, fun h0 h1 => ⟨?_, ?_⟩⟩
  · exact withOperands_of_illegal_op0 op1 s _ h0
  · exact withOperands_of_illegal_op0 op1 s _ h0
  · exact withOperands_of_illegal_op1 s _ h0 h1
  · exact withOperands_of_illegal_op1 s _ h0 h1

/-- The frame of a rejected opcode: the error is reported, the caller goes on by its policy, and nothing else changes
(60_exceptions.md R103, R104). -/
theorem unsupported_frame (n : OpNum) (s : State) :
    ∃ t, unsupported n s = .next t ∧ t.regs = s.regs ∧ t.report = some (.failed (.unsupportedOpcode n)) ∧
      t.pending = (if s.stopOnError then [] else s.pending) ∧ PolicyAndSignalsKept s t :=
  ⟨_, unsupported_eq_next n s, rfl, rfl, rfl, rfl, rfl, rfl⟩

/-- Settles O17: LDW is the rejection of opcode 0. -/
theorem ldwIsRejectedUnchanged : Obligations.LdwIsRejectedUnchanged := fun _ _ s => unsupported_frame 0#6 s

/-- Settles O18: STW is the rejection of opcode 1. -/
theorem stwIsRejectedUnchanged : Obligations.StwIsRejectedUnchanged := fun _ _ s => unsupported_frame 1#6 s

/-- Settles O38: reset is a launch by definition, and every one of its eight registers was filled with zero. -/
theorem startIsTheCallersChoice : Obligations.StartIsTheCallersChoice := by
  refine ⟨rfl, fun i hi => ?_, fun _ _ _ => rfl⟩
  exact (Vector.getElem?_eq_getElem hi).trans (congrArg some (Vector.getElem_replicate hi))

/-- Settles O37: neither an outcome nor signals stand in the reset state. -/
theorem resetIsCoherent : Obligations.ResetIsCoherent := ⟨trivial, rfl, rfl⟩

/-- Settles O32: with nothing presented, a step is the waiting case of `step_cases`. -/
theorem idleBlockWaits : Obligations.IdleBlockWaits := by
  intro s hidle
  rcases step_cases s with ⟨-, hstep⟩ | ⟨r, rest, hp, -⟩
  · exact hstep
  · cases hidle.symm.trans hp

end Sys2Proof.Machine

/-! ## How an operation ends (41_alu.md section 4)

The five ways in which an operation can end, each with the condition under which it does. A step on a request ends in one of
them, so a claim about one step is a case split over these five. -/

namespace Sys2Proof.Machine

/-- The ends of an operation on the request `r` in the accepted state `s`, each with the state it answers. -/
inductive OperationEnds (r : Request) (s : State) : State → Prop where
  /-- The decoder fails (60_exceptions.md R101). -/
  | decodeFailed {e : DecodeError} (hw : disassemble r.insn = .error e) : OperationEnds r s (raise (.ofDecode e) s)
  /-- The word decodes and is not to be executed (40_decode.md R61). -/
  | decodedOnly {d : DecodedInstr} (hw : disassemble r.insn = .ok d) (hx : r.execReq = false) :
      OperationEnds r s (finishDecode d s)
  /-- The opcode is neither ADD nor XOR (60_exceptions.md R103). -/
  | rejected {d : DecodedInstr} (hw : disassemble r.insn = .ok d) (hx : r.execReq = true)
      (hadd : d.opcode ≠ .add) (hxor : d.opcode ≠ .xor) :
      OperationEnds r s (raise (.unsupportedOpcode d.opcode.number) s)
  /-- ADD overflows (60_exceptions.md R102). -/
  | overflowed {d : DecodedInstr} {a b : Word} (hw : disassemble r.insn = .ok d) (hx : r.execReq = true)
      (ha : readReg s d.op0 = some a) (hb : readReg s d.op1 = some b)
      (hadd : d.opcode = .add) (hover : addOverflows a b = true) :
      OperationEnds r s (raise (.additionOverflow a b) s)
  /-- ADD or XOR succeeds (41_alu.md R70, R72). -/
  | succeeded {d : DecodedInstr} {a b : Word} (hw : disassemble r.insn = .ok d) (hx : r.execReq = true)
      (ha : readReg s d.op0 = some a) (hb : readReg s d.op1 = some b) (hsucc : Succeeds d.opcode a b) :
      OperationEnds r s (finish d (writeReg d.op0 (resultValue d.opcode a b) s))

theorem applyDecoded_of_rejected {d : DecodedInstr} (s : State) (hadd : d.opcode ≠ .add) (hxor : d.opcode ≠ .xor) :
    applyDecoded d s = .next (raise (.unsupportedOpcode d.opcode.number) s) := by
  rcases d with ⟨c, op0, op1⟩
  cases c with
  | ldw => rfl
  | stw => rfl
  | add => exact absurd rfl hadd
  | xor => exact absurd rfl hxor
  | unknown n => rfl

section Operands

variable {d : DecodedInstr} {s : State} {a b : Word}

theorem applyDecoded_of_overflow (ha : readReg s d.op0 = some a) (hb : readReg s d.op1 = some b)
    (hadd : d.opcode = .add) (hover : addOverflows a b = true) :
    applyDecoded d s = .next (raise (.additionOverflow a b) s) := by
  rcases d with ⟨c, op0, op1⟩
  obtain rfl : c = .add := hadd
  exact exec_add_of_overflow ha hb ((addOverflows_iff a b).1 hover)

theorem applyDecoded_of_succeeds (ha : readReg s d.op0 = some a) (hb : readReg s d.op1 = some b)
    (hsucc : Succeeds d.opcode a b) :
    applyDecoded d s = .next (finish d (writeReg d.op0 (resultValue d.opcode a b) s)) := by
  rcases d with ⟨c, op0, op1⟩
  obtain ⟨rfl, hfit⟩ | rfl : (c = .add ∧ addOverflows a b = false) ∨ c = .xor := hsucc
  · exact exec_add_of_fits ha hb ((addOverflows_eq_false_iff a b).1 hfit)
  · exact exec_xor_of_readReg ha hb

end Operands

theorem operate_of_error {r : Request} {e : DecodeError} (hw : disassemble r.insn = .error e) (s : State) :
    operate r s = .next (raise (.ofDecode e) s) := by
  simp [operate, hw]

theorem operate_of_decodeOnly {r : Request} {d : DecodedInstr} (hw : disassemble r.insn = .ok d)
    (hx : r.execReq = false) (s : State) : operate r s = .next (finishDecode d s) := by
  simp [operate, hw, hx]

theorem operate_of_exec {r : Request} {d : DecodedInstr} (hw : disassemble r.insn = .ok d) (hx : r.execReq = true)
    (s : State) : operate r s = applyDecoded d s := by
  simp [operate, hw, hx]

/-- One operation answers a state exactly when it ends there in one of the five ways. -/
theorem operate_eq_next_iff (r : Request) (s t : State) : operate r s = .next t ↔ OperationEnds r s t := by
  constructor
  · intro h
    rcases operate_cases r s with ⟨e, hw, hop⟩ | ⟨d, hw, hx, hop⟩ | ⟨d, hw, hx, hop⟩
    · obtain rfl := Host.Outcome.next.inj (hop.symm.trans h)
      exact .decodeFailed hw
    · obtain rfl := Host.Outcome.next.inj (hop.symm.trans h)
      exact .decodedOnly hw hx
    · rcases applyDecoded_eq_next (hop.symm.trans h) with ⟨hadd, hxor, rfl⟩ |
        ⟨a, b, ha, hb, ⟨hadd, hover, rfl⟩ | ⟨hsucc, rfl⟩⟩
      · exact .rejected hw hx hadd hxor
      · exact .overflowed hw hx ha hb hadd hover
      · exact .succeeded hw hx ha hb hsucc
  · intro h
    cases h with
    | decodeFailed hw => exact operate_of_error hw s
    | decodedOnly hw hx => exact operate_of_decodeOnly hw hx s
    | rejected hw hx hadd hxor => rw [operate_of_exec hw hx, applyDecoded_of_rejected s hadd hxor]
    | overflowed hw hx ha hb hadd hover => rw [operate_of_exec hw hx, applyDecoded_of_overflow ha hb hadd hover]
    | succeeded hw hx ha hb hsucc => rw [operate_of_exec hw hx, applyDecoded_of_succeeds ha hb hsucc]

/-- Every operation ends: the operands of a decoded word always read. -/
theorem exists_operationEnds (r : Request) (s : State) : ∃ t, OperationEnds r s t := by
  simp only [← operate_eq_next_iff]
  rcases operate_cases r s with ⟨e, -, hop⟩ | ⟨d, -, -, hop⟩ | ⟨d, hw, -, hop⟩
  · exact ⟨_, hop⟩
  · exact ⟨_, hop⟩
  · rw [hop]
    exact applyDecoded_total hw s

/-- A step on a request ends in one of the five ways, in the accepted state. -/
theorem step_eq_next_iff {s : State} {r : Request} {rest : List Request} (hp : s.pending = r :: rest) (t : State) :
    step s = .next t ↔ OperationEnds r (accept r rest s) t := by
  rw [step_of_pending hp, operate_eq_next_iff]

/-- Every operation leaves the signals as they settled at its start. -/
theorem OperationEnds.ports_eq {r : Request} {s t : State} (h : OperationEnds r s t) : t.ports = s.ports := by
  cases h <;> rfl

/-- What the decoder answers, `exec_req` and the register file fix the outcome and the register file afterwards
(10_state.md section 7). -/
theorem OperationEnds.transport {r r' : Request} {s s' t : State} (h : OperationEnds r s t)
    (hdec : disassemble r'.insn = disassemble r.insn) (hexec : r'.execReq = r.execReq) (hregs : s'.regs = s.regs) :
    ∃ t', OperationEnds r' s' t' ∧ t'.report = t.report ∧ t'.regs = t.regs := by
  have hread (i : RegIdx) : readReg s' i = readReg s i := by rw [readReg, readReg, hregs]
  cases h with
  | decodeFailed hw => exact ⟨_, .decodeFailed (hdec.trans hw), rfl, hregs⟩
  | decodedOnly hw hx => exact ⟨_, .decodedOnly (hdec.trans hw) (hexec.trans hx), rfl, hregs⟩
  | rejected hw hx hadd hxor => exact ⟨_, .rejected (hdec.trans hw) (hexec.trans hx) hadd hxor, rfl, hregs⟩
  | overflowed hw hx ha hb hadd hover =>
    exact ⟨_, .overflowed (hdec.trans hw) (hexec.trans hx) ((hread _).trans ha) ((hread _).trans hb) hadd hover,
      rfl, hregs⟩
  | succeeded hw hx ha hb hsucc =>
    exact ⟨_, .succeeded (hdec.trans hw) (hexec.trans hx) ((hread _).trans ha) ((hread _).trans hb) hsucc,
      rfl, by simp [hregs]⟩

/-- Settles O21: waiting answers the same state, and every operation ends (`exists_operationEnds`). -/
theorem everyStepAnswersNext : Obligations.EveryStepAnswersNext := by
  intro s
  rcases step_cases s with ⟨-, hstep⟩ | ⟨r, rest, hp, -⟩
  · exact ⟨s, hstep⟩
  · obtain ⟨t, ht⟩ := exists_operationEnds r (accept r rest s)
    exact ⟨t, (step_eq_next_iff hp t).2 ht⟩

/-- Settles O20: a word of the table runs its instruction in the accepted state, which is the state written out there. -/
theorem stepRunsTheDecodedInstruction : Obligations.StepRunsTheDecodedInstruction := by
  intro s w rest i hp hdec _
  rw [step_of_pending hp, operate_of_decode (r := ⟨w, true⟩) hdec rfl]
  rfl

/-- Settles O29: an illegal field fixes the decoder's error, which the step raises whatever else holds. -/
theorem decodeErrorsComeFirst : Obligations.DecodeErrorsComeFirst := by
  intro s r rest hp
  rw [← legalIndex_fieldOp0_eq_false_iff, ← legalIndex_fieldOp1_eq_false_iff, ← legalIndex_fieldOp0_iff,
    step_of_pending hp]
  refine ⟨fun h0 => ?_, fun h0 h1 => ?_⟩
  · have hw := (disassemble_eq_error_iff r.insn _).2 (.inl ⟨h0, rfl⟩)
    exact ⟨_, operate_of_error hw _, rfl, rfl⟩
  · have hw := (disassemble_eq_error_iff r.insn _).2 (.inr ⟨h0, h1, rfl⟩)
    exact ⟨_, operate_of_error hw _, rfl, rfl⟩

/-- Settles O31: the three errors go on by the policy, the two successes leave the requests alone. -/
theorem callerStopsOnlyByItsPolicy : Obligations.CallerStopsOnlyByItsPolicy := by
  intro s t r rest hp ht
  cases (step_eq_next_iff hp t).1 ht with
  | decodeFailed => exact ⟨fun _ => rfl, fun hok => absurd rfl (hok _)⟩
  | decodedOnly => exact ⟨nofun, fun _ => rfl⟩
  | rejected => exact ⟨fun _ => rfl, fun hok => absurd rfl (hok _)⟩
  | overflowed => exact ⟨fun _ => rfl, fun hok => absurd rfl (hok _)⟩
  | succeeded => exact ⟨nofun, fun _ => rfl⟩

/-- Settles O30: the first step's end, carried over to the second state, is where the second step ends. -/
theorem outcomeIgnoresHistory : Obligations.OutcomeIgnoresHistory := by
  intro s s' t t' r rest rest' hp hp' hregs ht ht'
  obtain ⟨u, hu, hreport, hfile⟩ :=
    ((step_eq_next_iff hp t).1 ht).transport (s' := accept r rest' s') rfl rfl hregs.symm
  obtain rfl := Host.Outcome.next.inj (((step_eq_next_iff hp' u).2 hu).symm.trans ht')
  exact ⟨hreport.symm, hfile.symm⟩

/-- With one outcome, one policy and the same requests behind, the requests left are the same. -/
theorem step_pending_congr {s s' t t' : State} {r r' : Request} {rest : List Request} (hp : s.pending = r :: rest)
    (hp' : s'.pending = r' :: rest) (hpolicy : s.stopOnError = s'.stopOnError) (ht : step s = .next t)
    (ht' : step s' = .next t') (hreport : t'.report = t.report) : t.pending = t'.pending := by
  obtain ⟨hfail, hok⟩ := callerStopsOnlyByItsPolicy s t r rest hp ht
  obtain ⟨hfail', hok'⟩ := callerStopsOnlyByItsPolicy s' t' r' rest hp' ht'
  rw [hreport] at hfail' hok'
  by_cases he : ∃ e, t.report = some (.failed e)
  · rw [hfail he, hfail' he, hpolicy]
  · have hne : ∀ e, t.report ≠ some (.failed e) := fun e h => he ⟨e, h⟩
    rw [hok hne, hok' hne]

/-- Settles O9: the two words decode alike, so the end of the step on one carries over to the other. -/
theorem ignoredBitsPlayNoPart : Obligations.IgnoredBitsPlayNoPart := by
  intro w v hwv
  refine ⟨disassemble_congr hwv, fun s execReq rest => ?_⟩
  have hp (x : Word) : { s with pending := ⟨x, execReq⟩ :: rest }.pending = ⟨x, execReq⟩ :: rest := rfl
  obtain ⟨t, ht⟩ := everyStepAnswersNext { s with pending := ⟨w, execReq⟩ :: rest }
  obtain ⟨u, hu, hreport, hregs⟩ := ((step_eq_next_iff (hp w) t).1 ht).transport (r' := ⟨v, execReq⟩)
    (s' := accept ⟨v, execReq⟩ rest { s with pending := ⟨v, execReq⟩ :: rest }) (disassemble_congr hwv.symm) rfl rfl
  have hu := (step_eq_next_iff (hp v) u).2 hu
  exact ⟨t, u, ht, hu, hregs.symm, hreport.symm, step_pending_congr (hp w) (hp v) rfl ht hu hreport⟩

/-- Settles O28: of the five ends only the rejection reports this error, and its condition is the one stated. -/
theorem unsupportedExactlyForUnexecutable : Obligations.UnsupportedExactlyForUnexecutable := by
  intro s t r rest n hp ht
  rw [← legalIndex_fieldOp0_iff, ← legalIndex_fieldOp1_iff, ← fieldOpcode_toNat, BitVec.toNat_inj]
  constructor
  · intro hreport
    cases (step_eq_next_iff hp t).1 ht with
    | decodeFailed => cases hreport
    | decodedOnly => cases hreport
    | overflowed => cases hreport
    | succeeded => cases hreport
    | @rejected d hw hx hadd hxor =>
      obtain ⟨h0, h1, rfl⟩ := (disassemble_eq_ok_iff r.insn d).1 hw
      cases hreport
      rw [Ne, opcodeOf_eq_add_iff] at hadd
      rw [Ne, opcodeOf_eq_xor_iff] at hxor
      rw [number_opcodeOf]
      exact ⟨hx, h0, h1, rfl, hadd, hxor⟩
  · rintro ⟨hx, h0, h1, rfl, hadd, hxor⟩
    have hend := OperationEnds.rejected (s := accept r rest s) ((disassemble_eq_ok_iff r.insn _).2 ⟨h0, h1, rfl⟩) hx
      (mt (opcodeOf_eq_add_iff _).1 hadd) (mt (opcodeOf_eq_xor_iff _).1 hxor)
    obtain rfl := Host.Outcome.next.inj (((step_eq_next_iff hp _).2 hend).symm.trans ht)
    rw [raise_report, number_opcodeOf]

end Sys2Proof.Machine

/-! ## The hardware view (41_alu.md section 3, 60_exceptions.md section 1)

The signals are functions of the request and the register file. What each shows at each end of an operation is compared with the
outcome that the functional meaning returns. -/

namespace Sys2Proof.Machine

/-- Settles O33: the carry is the overflow of the checked addition, and the low half is its value modulo 2^32. -/
theorem carryIsOverflow : Obligations.CarryIsOverflow := by
  intro a b
  rw [addOvf_eq_addOverflows, addOverflows_iff, addRes_eq_addValue, addValue, exactSum, BitVec.toNat_ofNat]
  exact ⟨Iff.rfl, rfl⟩

/-- Settles O35: one bound for each branch of `errorCode`. -/
theorem errorCodesStayDefined : Obligations.ErrorCodesStayDefined := by
  intro r x k
  rw [datapath_errCode, errorCode]
  split_ifs <;> decide

/-- After a step on a request the signals are those of that request and of the register file before it. -/
theorem step_ports {s t : State} {r : Request} {rest : List Request} (hp : s.pending = r :: rest)
    (ht : step s = .next t) : t.ports = some (datapath r s.regs s.drawIx) :=
  ((step_eq_next_iff hp t).1 ht).ports_eq

/-- Settles O34: the two ways of `step_writes_op0_or_nothing` are told apart by `rf_we`. -/
theorem writePortGivesTheRegisterFile : Obligations.WritePortGivesTheRegisterFile := by
  intro s t r rest hp ht
  refine ⟨_, step_ports hp ht, datapath_insn .., datapath_execReq .., ?_⟩
  rcases step_writes_op0_or_nothing hp ht with
    ⟨d, p, -, -, hkept, hports, hwe, haddr, hdata⟩ | ⟨-, hregs, p, hports, hwe⟩
  · obtain rfl := Option.some.inj ((step_ports hp ht).symm.trans hports)
    rw [haddr]
    exact ⟨fun _ => ⟨legalIndex_of_readReg hdata, hdata, hkept⟩, fun hoff => absurd (hwe.symm.trans hoff) nofun⟩
  · obtain rfl := Option.some.inj ((step_ports hp ht).symm.trans hports)
    exact ⟨fun hon => absurd (hwe.symm.trans hon) nofun, fun _ => hregs⟩

theorem decOk_of_ok {w : Word} {d : DecodedInstr} (hw : disassemble w = .ok d) : decOk w = true := by
  obtain ⟨h0, h1, -⟩ := (disassemble_eq_ok_iff w d).1 hw
  simp [decOk, h0, h1]

/-- `err_code` of a word that decodes (60_exceptions.md R105). -/
theorem errorCode_of_ok {r : Request} {d : DecodedInstr} (hw : disassemble r.insn = .ok d) (a b : Word) :
    errorCode r a b =
      if r.execReq = false then 0#3
      else if d.opcode = .add then (if addOverflows a b then 3#3 else 0#3)
      else if d.opcode = .xor then 0#3
      else 4#3 := by
  obtain ⟨h0, h1, rfl⟩ := (disassemble_eq_ok_iff r.insn d).1 hw
  simp [errorCode, h0, h1, addOvf_eq_addOverflows, opcodeOf_eq_add_iff, opcodeOf_eq_xor_iff]

section Signals

variable {r : Request} {d : DecodedInstr} (x : RegFile) (k : Nat)

/-- The decoder's signals of a word that decodes (40_decode.md R62). -/
theorem portsShowDecoded_of_ok (hw : disassemble r.insn = .ok d) : PortsShowDecoded (datapath r x k) d := by
  have hok := decOk_of_ok hw
  obtain ⟨hopcode, hclass, hop0, hop1⟩ := datapath_dec_of_decOk r x k hok
  obtain ⟨-, -, rfl⟩ := (disassemble_eq_ok_iff r.insn d).1 hw
  rw [PortsShowDecoded, number_opcodeOf]
  exact ⟨hok, hopcode, hop0, hop1, hclass⟩

/-- The signals of a decode error: its code and the offending index. -/
theorem portsShowError_of_error {e : DecodeError} (hw : disassemble r.insn = .error e) :
    PortsShowError (datapath r x k) (.ofDecode e) := by
  have hbad := decOk_of_error hw
  rcases (disassemble_eq_error_iff r.insn e).1 hw with ⟨h0, rfl⟩ | ⟨h0, h1, rfl⟩
  · have hcode : (datapath r x k).errCode = 1#3 := by simp [errorCode, h0]
    exact ⟨hbad, hcode, datapath_errValue_op0 r x k hcode⟩
  · have hcode : (datapath r x k).errCode = 2#3 := by simp [errorCode, h0, h1]
    exact ⟨hbad, hcode, datapath_errValue_op1 r x k hcode⟩

/-- The signals of a rejected opcode: code 4 and the opcode number. -/
theorem portsShowError_of_rejected (hw : disassemble r.insn = .ok d) (hx : r.execReq = true)
    (hadd : d.opcode ≠ .add) (hxor : d.opcode ≠ .xor) :
    PortsShowError (datapath r x k) (.unsupportedOpcode d.opcode.number) := by
  have hcode : (datapath r x k).errCode = 4#3 := by simp [errorCode_of_ok hw, hx, hadd, hxor]
  have herr := datapath_errOpcode r x k hcode
  obtain ⟨hok, hopcode, -, -, -⟩ := portsShowDecoded_of_ok x k hw
  obtain ⟨-, -, rfl⟩ := (disassemble_eq_ok_iff r.insn d).1 hw
  rw [Ne, opcodeOf_eq_add_iff] at hadd
  rw [Ne, opcodeOf_eq_xor_iff] at hxor
  rw [number_opcodeOf] at hopcode ⊢
  exact ⟨hok, hx, hcode, herr, hopcode, hadd, hxor⟩

/-- The signals of an overflow: code 3 and the two operands. -/
theorem portsShowError_of_overflow {s : State} {a b : Word} (hw : disassemble r.insn = .ok d) (hx : r.execReq = true)
    (ha : readReg s d.op0 = some a) (hb : readReg s d.op1 = some b) (hadd : d.opcode = .add)
    (hover : addOverflows a b = true) : PortsShowError (datapath r s.regs k) (.additionOverflow a b) := by
  obtain ⟨hport0, hport1⟩ := readPorts_of_ok k hw hx (.inl hadd) ha hb
  have hcode : (datapath r s.regs k).errCode = 3#3 := by
    simp [errorCode_of_ok hw, hx, hadd, hport0, hport1, hover]
  obtain ⟨hok, hopcode, -, -, -⟩ := portsShowDecoded_of_ok s.regs k hw
  rw [hadd] at hopcode
  exact ⟨hok, hx, hopcode, hcode, (datapath_errA r s.regs k hcode).trans hport0,
    (datapath_errB r s.regs k hcode).trans hport1, (addOverflows_iff a b).1 hover⟩

/-- An ADD or XOR that succeeds shows no error. -/
theorem datapath_errCode_of_succeeds {s : State} {a b : Word} (hw : disassemble r.insn = .ok d)
    (hx : r.execReq = true) (ha : readReg s d.op0 = some a) (hb : readReg s d.op1 = some b)
    (hsucc : Succeeds d.opcode a b) : (datapath r s.regs k).errCode = 0#3 := by
  obtain ⟨hport0, hport1⟩ := readPorts_of_ok k hw hx hsucc.add_or_xor ha hb
  rw [datapath_errCode, hport0, hport1, errorCode_of_ok hw]
  rcases hsucc with ⟨hadd, hfit⟩ | hxor
  · simp [hx, hadd, hfit]
  · simp [hx, hxor]

end Signals

/-- Outside a success the write port is off. -/
theorem rfWe_of_not_executed {s t : State} {r : Request} {rest : List Request} (hp : s.pending = r :: rest)
    (ht : step s = .next t) (hnone : ∀ d, t.report ≠ some (.executed d)) :
    (datapath r s.regs s.drawIx).rfWe = false := by
  obtain ⟨-, p, hports, hwe⟩ := (atMostOneRegisterIsWritten s t r rest hp ht).2 hnone
  rwa [← Option.some.inj ((step_ports hp ht).symm.trans hports)] at hwe

/-- On a success the write port is on, at op0. -/
theorem rfWe_of_executed {s t : State} {r : Request} {rest : List Request} {d : DecodedInstr}
    (hp : s.pending = r :: rest) (ht : step s = .next t) (hreport : t.report = some (.executed d)) :
    (datapath r s.regs s.drawIx).rfWe = true ∧ (datapath r s.regs s.drawIx).rfWaddr = d.op0 := by
  obtain ⟨-, -, p, hports, hwe, haddr, -⟩ := (atMostOneRegisterIsWritten s t r rest hp ht).1 d hreport
  rw [Option.some.inj ((step_ports hp ht).symm.trans hports)]
  exact ⟨hwe, haddr⟩

/-- A step on a request returns an outcome that its signals show. -/
theorem step_portsShowReport {s t : State} {r : Request} {rest : List Request} (hp : s.pending = r :: rest)
    (ht : step s = .next t) :
    ∃ o, t.report = some o ∧ PortsShowReport (datapath r s.regs s.drawIx) o := by
  cases (step_eq_next_iff hp t).1 ht with
  | decodeFailed hw =>
    exact ⟨_, rfl, portsShowError_of_error s.regs s.drawIx hw, rfWe_of_not_executed hp ht nofun⟩
  | decodedOnly hw hx =>
    have hcode : (datapath r s.regs s.drawIx).errCode = 0#3 := by simp [errorCode_of_ok hw, hx]
    exact ⟨_, rfl, portsShowDecoded_of_ok s.regs s.drawIx hw, hx, rfWe_of_not_executed hp ht nofun, hcode⟩
  | rejected hw hx hadd hxor =>
    exact ⟨_, rfl, portsShowError_of_rejected s.regs s.drawIx hw hx hadd hxor, rfWe_of_not_executed hp ht nofun⟩
  | overflowed hw hx ha hb hadd hover =>
    exact ⟨_, rfl, portsShowError_of_overflow s.drawIx hw hx ha hb hadd hover, rfWe_of_not_executed hp ht nofun⟩
  | succeeded hw hx ha hb hsucc =>
    obtain ⟨hwe, haddr⟩ := rfWe_of_executed hp ht rfl
    exact ⟨_, rfl, portsShowDecoded_of_ok s.regs s.drawIx hw, hx, hwe, haddr,
      datapath_errCode_of_succeeds s.drawIx hw hx ha hb hsucc, hsucc.add_or_xor⟩

theorem coherent_of_portsShowReport {s : State} {o : Report} {p : Ports} (hreport : s.report = some o)
    (hports : s.ports = some p) (hshow : PortsShowReport p o) : Coherent s := by
  simpa only [Coherent, hreport, hports] using hshow

/-- Settles O36: waiting changes nothing, and an operation replaces both the outcome and the signals by a pair that agrees. -/
theorem stepKeepsCoherence : Obligations.StepKeepsCoherence := by
  intro s t hs ht
  rcases step_cases s with ⟨-, hidle⟩ | ⟨r, rest, hp, -⟩
  · obtain rfl := Host.Outcome.next.inj (hidle.symm.trans ht)
    exact hs
  · obtain ⟨o, hreport, hshow⟩ := step_portsShowReport hp ht
    exact coherent_of_portsShowReport hreport (step_ports hp ht) hshow

end Sys2Proof.Machine

/-! ## The block as one arithmetic function (41_alu.md R80)

`blockFunction` reads the fields of the word as numbers. Its value on a word that decodes, and on one that does not, is said in the
model's own words; the five ends of an operation then match it one by one. -/

namespace Sys2Proof.Machine

theorem legalIndex_iff_lt_numRegs (i : RegIdx) : legalIndex i = true ↔ i.toNat < Config.numRegs := by
  rw [legalIndex_iff, Config.numRegs, Nat.lt_succ_iff]

theorem fieldOpcode_eq_iff (w : Word) (n : OpNum) : fieldOpcode w = n ↔ w.toNat % 64 = n.toNat := by
  rw [← fieldOpcode_toNat, BitVec.toNat_inj]

/-- A register that reads, found at its index as a number. -/
theorem getElem_of_readReg {s : State} {i : RegIdx} {v : Word} {n : Nat} (h : readReg s i = some v)
    (hi : i.toNat = n) : ∃ hn : n < Config.numRegs, s.regs[n] = v := by
  rw [readReg, hi] at h
  exact Vector.getElem?_eq_some_iff.1 h

/-- Writing through a legal index replaces that element of the register file. -/
theorem writeReg_regs_eq_set {i : RegIdx} {n : Nat} (s : State) (v : Word) (hi : i.toNat = n) (hn : n < Config.numRegs) :
    (writeReg i v s).regs = s.regs.set n v hn := by
  subst hi
  apply Vector.ext
  intro j hj
  simp [Vector.getElem_set, Vector.getElem_setIfInBounds]

/-- On a word that does not decode the block function answers the decoder's error. -/
theorem blockFunction_of_error {w : Word} {e : DecodeError} (hw : disassemble w = .error e) (x : RegFile) :
    blockFunction w x = .error (.ofDecode e) := by
  rcases (disassemble_eq_error_iff w e).1 hw with ⟨h0, rfl⟩ | ⟨h0, h1, rfl⟩
  · rw [← Bool.not_eq_true, legalIndex_iff_lt_numRegs, fieldOp0_toNat] at h0
    rw [blockFunction, dif_neg h0, ← fieldOp0_toNat, BitVec.ofNat_toNat, BitVec.setWidth_eq]
    rfl
  · rw [legalIndex_iff_lt_numRegs, fieldOp0_toNat] at h0
    rw [← Bool.not_eq_true, legalIndex_iff_lt_numRegs, fieldOp1_toNat] at h1
    rw [blockFunction, dif_pos h0, dif_neg h1, ← fieldOp1_toNat, BitVec.ofNat_toNat, BitVec.setWidth_eq]
    rfl

/-- On a word that decodes, with both operands read, the block function is the choice among the meanings. -/
theorem blockFunction_of_ok {w : Word} {d : DecodedInstr} {s : State} {a b : Word} (hw : disassemble w = .ok d)
    (ha : readReg s d.op0 = some a) (hb : readReg s d.op1 = some b) :
    blockFunction w s.regs =
      if d.opcode = .add then
        if addOverflows a b = false then .ok (writeReg d.op0 (addValue a b) s).regs
        else .error (.additionOverflow a b)
      else if d.opcode = .xor then .ok (writeReg d.op0 (xorValue a b) s).regs
      else .error (.unsupportedOpcode d.opcode.number) := by
  obtain ⟨-, -, rfl⟩ := (disassemble_eq_ok_iff w d).1 hw
  obtain ⟨h0, ha⟩ := getElem_of_readReg ha (fieldOp0_toNat w)
  obtain ⟨h1, hb⟩ := getElem_of_readReg hb (fieldOp1_toNat w)
  rw [blockFunction, dif_pos h0, dif_pos h1, ha, hb]
  simp only [opcodeOf_eq_add_iff, opcodeOf_eq_xor_iff, fieldOpcode_eq_iff, addOverflows_eq_false_iff,
    writeReg_regs_eq_set s _ (fieldOp0_toNat w) h0, number_opcodeOf]
  rw [fieldOpcode_eq_ofNat]
  rfl

theorem blockFunction_of_rejected {w : Word} {d : DecodedInstr} (hw : disassemble w = .ok d) (hadd : d.opcode ≠ .add)
    (hxor : d.opcode ≠ .xor) (s : State) :
    blockFunction w s.regs = .error (.unsupportedOpcode d.opcode.number) := by
  obtain ⟨h0, h1, rfl⟩ := (disassemble_eq_ok_iff w d).1 hw
  obtain ⟨a, ha⟩ := exists_readReg_of_legalIndex s h0
  obtain ⟨b, hb⟩ := exists_readReg_of_legalIndex s h1
  rw [blockFunction_of_ok hw ha hb, if_neg hadd, if_neg hxor]

theorem blockFunction_of_overflow {w : Word} {d : DecodedInstr} {s : State} {a b : Word} (hw : disassemble w = .ok d)
    (ha : readReg s d.op0 = some a) (hb : readReg s d.op1 = some b) (hadd : d.opcode = .add)
    (hover : addOverflows a b = true) : blockFunction w s.regs = .error (.additionOverflow a b) := by
  rw [blockFunction_of_ok hw ha hb, if_pos hadd, if_neg (by simp [hover])]

theorem blockFunction_of_succeeds {w : Word} {d : DecodedInstr} {s : State} {a b : Word} (hw : disassemble w = .ok d)
    (ha : readReg s d.op0 = some a) (hb : readReg s d.op1 = some b) (hsucc : Succeeds d.opcode a b) :
    blockFunction w s.regs = .ok (writeReg d.op0 (resultValue d.opcode a b) s).regs := by
  rw [blockFunction_of_ok hw ha hb]
  rcases hsucc with ⟨hadd, hfit⟩ | hxor
  · simp [hadd, hfit, resultValue]
  · simp [hxor, resultValue]

/-- Settles O23: the five ends of the operation, each against the value of the block function there. -/
theorem stepRefinesBlockFunction : Obligations.StepRefinesBlockFunction := by
  intro s w rest hp
  obtain ⟨t, ht⟩ := exists_operationEnds ⟨w, true⟩ (accept ⟨w, true⟩ rest s)
  refine ⟨t, (step_eq_next_iff hp t).2 ht, ?_⟩
  cases ht with
  | decodeFailed hw =>
    rw [blockFunction_of_error hw]
    exact ⟨rfl, rfl⟩
  | decodedOnly _ hx => cases hx
  | rejected hw _ hadd hxor =>
    rw [blockFunction_of_rejected hw hadd hxor s]
    exact ⟨rfl, rfl⟩
  | overflowed hw _ ha hb hadd hover =>
    rw [blockFunction_of_overflow (w := w) (s := s) hw ha hb hadd hover]
    exact ⟨rfl, rfl⟩
  | succeeded hw _ ha hb hsucc =>
    rw [blockFunction_of_succeeds (w := w) (s := s) hw ha hb hsucc]
    exact ⟨rfl, rfl, _, hw, rfl⟩

end Sys2Proof.Machine
